-- ==== Sys2Proof/Word.lean ====
section
/-! DEFINITION. The word types of the block (00_scope.md R11, 30_encoding.md R100). -/

namespace Sys2Proof

/-- The bus data width: 8 bits (00_scope.md R11). -/
abbrev Byte := BitVec 8

/-- The bus address width: 16 bits (00_scope.md R11). -/
abbrev Addr := BitVec 16

/-- The operation word: 27 bits (30_encoding.md R100). -/
abbrev OpWord := BitVec 27

/-- A timestamp in whole seconds: 64 bits, unsigned (10_state.md R33, log entry 35). -/
abbrev Time := BitVec 64

end Sys2Proof
end

