-- ==== Sys2Proof/Config.lean ====
section
/-! DEFINITION. Fixed constants of the block (00_scope.md R11), the variants (R2), and the implementation
parameters of 00_scope.md R10. A parameter is DATA: `Params` stands as a field in the machine's state, so a
statement about every state holds for every value of every parameter (log entry 10). -/

namespace Sys2Proof

/-- The four variants (00_scope.md R2). -/
inductive Variant where
  | romOnly
  | linearBank
  | wideClock
  | wideBank
deriving DecidableEq, Repr

/-- What a supported cartridge-type code decodes to (00_scope.md R9, R10). -/
structure CartType where
  variant    : Variant
  hasRam     : Bool
  hasBattery : Bool
  hasTimer   : Bool
deriving DecidableEq, Repr

/-- A sentinel byte of a disabled RAM read is 0x00 or 0xFF and nothing else (00_scope.md R10). -/
inductive Sentinel where
  | x00
  | xFF
deriving DecidableEq, Repr

/-- The implementation parameters of 00_scope.md R10 (`now`, the ninth, comes with each request). -/
structure Params where
  /-- `TYPE_TABLE`: a code that no entry lists is `Unsupported`. -/
  typeTable : List (Byte × CartType)
  /-- `TICK_FREQ`, at least 1. -/
  tickFreq : Nat
  /-- `RAM_INIT`: the bytes that are not 0x00, by offset; the first `ramSize` bytes are taken. -/
  ramInit : List Host.Cell
  /-- `LATCH_INIT`, not 0. -/
  latchInit : Byte
  /-- `RESET_ROM_BANK`. -/
  resetRomBank : Byte
  /-- `DISABLED_READ_WIDEBANK`. -/
  disabledReadWideBank : Sentinel
  /-- `DISABLED_READ_ROMONLY`. -/
  disabledReadRomOnly : Sentinel
  /-- `PERSIST_BEFORE_REDUCE`. -/
  persistBeforeReduce : Bool
deriving DecidableEq, Repr

namespace Config

/-- ROM bank size, 16 KiB (00_scope.md R11). -/
def romBankBytes : Nat := 16384

/-- RAM bank size, 8 KiB (00_scope.md R11). -/
def ramBankBytes : Nat := 8192

/-- Size of the RTC block in the store (00_scope.md R11). -/
def rtcBlockBytes : Nat := 22

/-- The table of 93_implementation_defined.md G1. PRESUMED: general knowledge, not the document's (log entry 6). -/
def suggestedTypeTable : List (Byte × CartType) :=
  [(0x00, ⟨.romOnly, false, false, false⟩),
   (0x01, ⟨.linearBank, false, false, false⟩),
   (0x02, ⟨.linearBank, true, false, false⟩),
   (0x03, ⟨.linearBank, true, true, false⟩),
   (0x0F, ⟨.wideClock, false, true, true⟩),
   (0x10, ⟨.wideClock, true, true, true⟩),
   (0x11, ⟨.wideClock, false, false, false⟩),
   (0x12, ⟨.wideClock, true, false, false⟩),
   (0x13, ⟨.wideClock, true, true, false⟩),
   (0x19, ⟨.wideBank, false, false, false⟩),
   (0x1A, ⟨.wideBank, true, false, false⟩),
   (0x1B, ⟨.wideBank, true, true, false⟩)]

/-- The defaults of 00_scope.md R10; for the two parameters without a default, the general-knowledge values of
93_implementation_defined.md G1 and G3 (log entries 3 to 9). Only the reset state fixes them. -/
def defaultParams : Params :=
  { typeTable := suggestedTypeTable
    tickFreq := 4194304
    ramInit := []
    latchInit := 0xFF
    resetRomBank := 1
    disabledReadWideBank := .x00
    disabledReadRomOnly := .xFF
    persistBeforeReduce := true }

end Config
end Sys2Proof
end

