-- ==== Sys2Proof/Syntax.lean ====
section
/-! DEFINITION. The operations of the block: one constructor per mnemonic of 30_encoding.md R105, with the operands the
operation word carries (address `a`, datum `d`). Operands that are not in the word (R101: `cyclesElapsed`, `now`, those of
`CONSTRUCT`) come with the request (`Machine/State.lean`, `Request`). -/

namespace Sys2Proof

/-- The regions of the bus space (30_encoding.md R104): `e` 0x0000-0x1FFF, `b` 0x2000-0x3FFF, `s` 0x4000-0x5FFF,
`m` 0x6000-0x7FFF, `x1` 0x8000-0x9FFF, `w` 0xA000-0xBFFF (the RAM window), `x2` 0xC000-0xFFFF. -/
inductive Region where
  | e
  | b
  | s
  | m
  | x1
  | w
  | x2
deriving DecidableEq, Repr

/-- The selector class of the RAM window on `WideClock` (42_wide_clock_bank.md R198): disabled, RAM bank, RTC register,
or an unmapped selector. -/
inductive Window where
  | off
  | ram
  | rtc
  | badSel
deriving DecidableEq, Repr

/-- What the decode of an operation depends on beside the word (30_encoding.md R103, R114): the variant and, inside the
RAM window, the enable flag and the selector class. -/
inductive Mode where
  | romOnly
  | linearBank (ramEnabled : Bool)
  | wideClock (window : Window)
  | wideBank (ramEnabled : Bool)
deriving DecidableEq, Repr

/-- The "variant" and "cond" columns of a row of the opcode table (30_encoding.md R105, R106); `none` is an empty "cond". -/
inductive RowCond where
  | any
  | romOnly
  | linearBank (ramEnabled : Option Bool)
  | wideClock (window : Option Window)
  | wideBank (ramEnabled : Option Bool)
deriving DecidableEq, Repr

/-- The operations (30_encoding.md R105). -/
inductive Instr where
  /-- `CON` (R132). -/
  | con
  /-- `FIN` (R133). -/
  | fin
  /-- `RO.TICK` (R136). -/
  | roTick
  /-- `RO.RD.ROM0` (R131). -/
  | roRdRom0 (a : Addr)
  /-- `RO.RD.ROMX` (R140). -/
  | roRdRomx (a : Addr)
  /-- `RO.RD.WIN` (R142). -/
  | roRdWin (a : Addr)
  /-- `RO.WR.ROM` (R141). -/
  | roWrRom (a : Addr) (d : Byte)
  /-- `RO.WR.WIN` (R143). -/
  | roWrWin (a : Addr) (d : Byte)
  /-- `RO.RD.EXT` (R134). -/
  | roRdExt (a : Addr)
  /-- `RO.WR.EXT` (R135). -/
  | roWrExt (a : Addr) (d : Byte)
  /-- `LIN.TICK` (R136). -/
  | linTick
  /-- `LIN.RD.ROM0` (R131). -/
  | linRdRom0 (a : Addr)
  /-- `LIN.RD.ROMX` (R168). -/
  | linRdRomx (a : Addr)
  /-- `LIN.RD.RAM` (R170). -/
  | linRdRam (a : Addr)
  /-- `LIN.RD.RAMOFF` (R172). -/
  | linRdRamoff (a : Addr)
  /-- `LIN.WR.RAMEN` (R163). -/
  | linWrRamen (a : Addr) (d : Byte)
  /-- `LIN.WR.ROMB` (R164). -/
  | linWrRomb (a : Addr) (d : Byte)
  /-- `LIN.WR.BANKSEL` (R165). -/
  | linWrBanksel (a : Addr) (d : Byte)
  /-- `LIN.WR.MODE` (R166). -/
  | linWrMode (a : Addr) (d : Byte)
  /-- `LIN.WR.RAM` (R171). -/
  | linWrRam (a : Addr) (d : Byte)
  /-- `LIN.WR.RAMOFF` (R173). -/
  | linWrRamoff (a : Addr) (d : Byte)
  /-- `LIN.RD.EXT` (R134). -/
  | linRdExt (a : Addr)
  /-- `LIN.WR.EXT` (R135). -/
  | linWrExt (a : Addr) (d : Byte)
  /-- `WC.TICK` (R240). -/
  | wcTick
  /-- `WC.RD.ROM0` (R131). -/
  | wcRdRom0 (a : Addr)
  /-- `WC.RD.ROMX` (R197). -/
  | wcRdRomx (a : Addr)
  /-- `WC.RD.RAM` (R199). -/
  | wcRdRam (a : Addr)
  /-- `WC.RD.RTC` (R232). -/
  | wcRdRtc (a : Addr)
  /-- `WC.RD.BADSEL` (R200). -/
  | wcRdBadsel (a : Addr)
  /-- `WC.RD.OFF` (R201). -/
  | wcRdOff (a : Addr)
  /-- `WC.WR.EN` (R193). -/
  | wcWrEn (a : Addr) (d : Byte)
  /-- `WC.WR.ROMB` (R194). -/
  | wcWrRomb (a : Addr) (d : Byte)
  /-- `WC.WR.SEL` (R195). -/
  | wcWrSel (a : Addr) (d : Byte)
  /-- `WC.WR.LATCH` (R230). -/
  | wcWrLatch (a : Addr) (d : Byte)
  /-- `WC.WR.RAM` (R202). -/
  | wcWrRam (a : Addr) (d : Byte)
  /-- `WC.WR.RTC` (R233). -/
  | wcWrRtc (a : Addr) (d : Byte)
  /-- `WC.WR.BADSEL` (R203). -/
  | wcWrBadsel (a : Addr) (d : Byte)
  /-- `WC.WR.OFF` (R204). -/
  | wcWrOff (a : Addr) (d : Byte)
  /-- `WC.RD.EXT` (R134). -/
  | wcRdExt (a : Addr)
  /-- `WC.WR.EXT` (R135). -/
  | wcWrExt (a : Addr) (d : Byte)
  /-- `WB.TICK` (R136). -/
  | wbTick
  /-- `WB.RD.ROM0` (R131). -/
  | wbRdRom0 (a : Addr)
  /-- `WB.RD.ROMX` (R268). -/
  | wbRdRomx (a : Addr)
  /-- `WB.RD.RAM` (R269). -/
  | wbRdRam (a : Addr)
  /-- `WB.RD.RAMOFF` (R271). -/
  | wbRdRamoff (a : Addr)
  /-- `WB.WR.RAMEN` (R263). -/
  | wbWrRamen (a : Addr) (d : Byte)
  /-- `WB.WR.ROMB0` (R264). -/
  | wbWrRomb0 (a : Addr) (d : Byte)
  /-- `WB.WR.ROMB1` (R265). -/
  | wbWrRomb1 (a : Addr) (d : Byte)
  /-- `WB.WR.RAMB` (R266). -/
  | wbWrRamb (a : Addr) (d : Byte)
  /-- `WB.WR.NOP` (R267). -/
  | wbWrNop (a : Addr) (d : Byte)
  /-- `WB.WR.RAM` (R270). -/
  | wbWrRam (a : Addr) (d : Byte)
  /-- `WB.WR.RAMOFF` (R272). -/
  | wbWrRamoff (a : Addr) (d : Byte)
  /-- `WB.RD.EXT` (R134). -/
  | wbRdExt (a : Addr)
  /-- `WB.WR.EXT` (R135). -/
  | wbWrExt (a : Addr) (d : Byte)
deriving DecidableEq, Repr

/-- The mnemonic of an operation, as the opcode table spells it. -/
def Instr.mnemonic : Instr → String
  | .con => "CON"
  | .fin => "FIN"
  | .roTick => "RO.TICK"
  | .roRdRom0 _ => "RO.RD.ROM0"
  | .roRdRomx _ => "RO.RD.ROMX"
  | .roRdWin _ => "RO.RD.WIN"
  | .roWrRom _ _ => "RO.WR.ROM"
  | .roWrWin _ _ => "RO.WR.WIN"
  | .roRdExt _ => "RO.RD.EXT"
  | .roWrExt _ _ => "RO.WR.EXT"
  | .linTick => "LIN.TICK"
  | .linRdRom0 _ => "LIN.RD.ROM0"
  | .linRdRomx _ => "LIN.RD.ROMX"
  | .linRdRam _ => "LIN.RD.RAM"
  | .linRdRamoff _ => "LIN.RD.RAMOFF"
  | .linWrRamen _ _ => "LIN.WR.RAMEN"
  | .linWrRomb _ _ => "LIN.WR.ROMB"
  | .linWrBanksel _ _ => "LIN.WR.BANKSEL"
  | .linWrMode _ _ => "LIN.WR.MODE"
  | .linWrRam _ _ => "LIN.WR.RAM"
  | .linWrRamoff _ _ => "LIN.WR.RAMOFF"
  | .linRdExt _ => "LIN.RD.EXT"
  | .linWrExt _ _ => "LIN.WR.EXT"
  | .wcTick => "WC.TICK"
  | .wcRdRom0 _ => "WC.RD.ROM0"
  | .wcRdRomx _ => "WC.RD.ROMX"
  | .wcRdRam _ => "WC.RD.RAM"
  | .wcRdRtc _ => "WC.RD.RTC"
  | .wcRdBadsel _ => "WC.RD.BADSEL"
  | .wcRdOff _ => "WC.RD.OFF"
  | .wcWrEn _ _ => "WC.WR.EN"
  | .wcWrRomb _ _ => "WC.WR.ROMB"
  | .wcWrSel _ _ => "WC.WR.SEL"
  | .wcWrLatch _ _ => "WC.WR.LATCH"
  | .wcWrRam _ _ => "WC.WR.RAM"
  | .wcWrRtc _ _ => "WC.WR.RTC"
  | .wcWrBadsel _ _ => "WC.WR.BADSEL"
  | .wcWrOff _ _ => "WC.WR.OFF"
  | .wcRdExt _ => "WC.RD.EXT"
  | .wcWrExt _ _ => "WC.WR.EXT"
  | .wbTick => "WB.TICK"
  | .wbRdRom0 _ => "WB.RD.ROM0"
  | .wbRdRomx _ => "WB.RD.ROMX"
  | .wbRdRam _ => "WB.RD.RAM"
  | .wbRdRamoff _ => "WB.RD.RAMOFF"
  | .wbWrRamen _ _ => "WB.WR.RAMEN"
  | .wbWrRomb0 _ _ => "WB.WR.ROMB0"
  | .wbWrRomb1 _ _ => "WB.WR.ROMB1"
  | .wbWrRamb _ _ => "WB.WR.RAMB"
  | .wbWrNop _ _ => "WB.WR.NOP"
  | .wbWrRam _ _ => "WB.WR.RAM"
  | .wbWrRamoff _ _ => "WB.WR.RAMOFF"
  | .wbRdExt _ => "WB.RD.EXT"
  | .wbWrExt _ _ => "WB.WR.EXT"

/-- The bus address the operation word carries; 0 where the word's A field must be 0 (30_encoding.md R100). -/
def Instr.addr : Instr → Addr
  | .con => 0
  | .fin => 0
  | .roTick => 0
  | .roRdRom0 a => a
  | .roRdRomx a => a
  | .roRdWin a => a
  | .roWrRom a _ => a
  | .roWrWin a _ => a
  | .roRdExt a => a
  | .roWrExt a _ => a
  | .linTick => 0
  | .linRdRom0 a => a
  | .linRdRomx a => a
  | .linRdRam a => a
  | .linRdRamoff a => a
  | .linWrRamen a _ => a
  | .linWrRomb a _ => a
  | .linWrBanksel a _ => a
  | .linWrMode a _ => a
  | .linWrRam a _ => a
  | .linWrRamoff a _ => a
  | .linRdExt a => a
  | .linWrExt a _ => a
  | .wcTick => 0
  | .wcRdRom0 a => a
  | .wcRdRomx a => a
  | .wcRdRam a => a
  | .wcRdRtc a => a
  | .wcRdBadsel a => a
  | .wcRdOff a => a
  | .wcWrEn a _ => a
  | .wcWrRomb a _ => a
  | .wcWrSel a _ => a
  | .wcWrLatch a _ => a
  | .wcWrRam a _ => a
  | .wcWrRtc a _ => a
  | .wcWrBadsel a _ => a
  | .wcWrOff a _ => a
  | .wcRdExt a => a
  | .wcWrExt a _ => a
  | .wbTick => 0
  | .wbRdRom0 a => a
  | .wbRdRomx a => a
  | .wbRdRam a => a
  | .wbRdRamoff a => a
  | .wbWrRamen a _ => a
  | .wbWrRomb0 a _ => a
  | .wbWrRomb1 a _ => a
  | .wbWrRamb a _ => a
  | .wbWrNop a _ => a
  | .wbWrRam a _ => a
  | .wbWrRamoff a _ => a
  | .wbRdExt a => a
  | .wbWrExt a _ => a

/-- The datum the operation word carries; 0 where the word's D field must be 0 (30_encoding.md R100). -/
def Instr.datum : Instr → Byte
  | .con => 0
  | .fin => 0
  | .roTick => 0
  | .roRdRom0 _ => 0
  | .roRdRomx _ => 0
  | .roRdWin _ => 0
  | .roWrRom _ d => d
  | .roWrWin _ d => d
  | .roRdExt _ => 0
  | .roWrExt _ d => d
  | .linTick => 0
  | .linRdRom0 _ => 0
  | .linRdRomx _ => 0
  | .linRdRam _ => 0
  | .linRdRamoff _ => 0
  | .linWrRamen _ d => d
  | .linWrRomb _ d => d
  | .linWrBanksel _ d => d
  | .linWrMode _ d => d
  | .linWrRam _ d => d
  | .linWrRamoff _ d => d
  | .linRdExt _ => 0
  | .linWrExt _ d => d
  | .wcTick => 0
  | .wcRdRom0 _ => 0
  | .wcRdRomx _ => 0
  | .wcRdRam _ => 0
  | .wcRdRtc _ => 0
  | .wcRdBadsel _ => 0
  | .wcRdOff _ => 0
  | .wcWrEn _ d => d
  | .wcWrRomb _ d => d
  | .wcWrSel _ d => d
  | .wcWrLatch _ d => d
  | .wcWrRam _ d => d
  | .wcWrRtc _ d => d
  | .wcWrBadsel _ d => d
  | .wcWrOff _ d => d
  | .wcRdExt _ => 0
  | .wcWrExt _ d => d
  | .wbTick => 0
  | .wbRdRom0 _ => 0
  | .wbRdRomx _ => 0
  | .wbRdRam _ => 0
  | .wbRdRamoff _ => 0
  | .wbWrRamen _ d => d
  | .wbWrRomb0 _ d => d
  | .wbWrRomb1 _ d => d
  | .wbWrRamb _ d => d
  | .wbWrNop _ d => d
  | .wbWrRam _ d => d
  | .wbWrRamoff _ d => d
  | .wbRdExt _ => 0
  | .wbWrExt _ d => d

end Sys2Proof
end

