-- ==== Sys2Proof/Machine/AddressMap.lean ====
section
/-! DEFINITION. The map of the bus space: region decode (30_encoding.md R104) and the register map of `WideBank`
(44_wide_bank.md R261), kept in one record as that rule asks. -/

namespace Sys2Proof

/-- Region decode by `A[15:13]` (30_encoding.md R104). -/
def regionOf (a : Addr) : Region :=
  match (a.extractLsb' 13 3).toNat with
  | 0 => .e
  | 1 => .b
  | 2 => .s
  | 3 => .m
  | 4 => .x1
  | 5 => .w
  | _ => .x2

/-- What a `WRITE` to 0x0000-0x7FFF reaches on `WideBank` (44_wide_bank.md R263 to R267). -/
inductive WideBankTarget where
  | ramEnable
  | romBankLow
  | romBankHigh
  | ramBank
  | ignored
deriving DecidableEq, Repr

/-- A range of bus addresses, both ends included. -/
structure AddrRange where
  first : Nat
  last  : Nat
deriving DecidableEq, Repr

/-- The address lies in the range. -/
def AddrRange.has (r : AddrRange) (a : Addr) : Bool := decide (r.first ≤ a.toNat) && decide (a.toNat ≤ r.last)

/-- The five choices of 92_eei_decisions.md D11 in one record, as 44_wide_bank.md R261 asks: the register ranges (an
address of 0x0000-0x7FFF in none of them is ignored), the enable test, the bit of the datum that `romBankHigh` takes, and the
size of the bank in the RAM offset formula. -/
structure WideBankMap where
  ramEnable      : AddrRange
  romBankLow     : AddrRange
  romBankHigh    : AddrRange
  ramBank        : AddrRange
  enableMask     : Byte
  enableValue    : Byte
  romBankHighBit : Nat
  ramBankBytes   : Nat
deriving DecidableEq, Repr

/-- The choices D11 makes. PRESUMED: the ranges are general knowledge, not the document's (log entry 11). -/
def wideBankMap : WideBankMap :=
  { ramEnable := ⟨0x0000, 0x1FFF⟩
    romBankLow := ⟨0x2000, 0x2FFF⟩
    romBankHigh := ⟨0x3000, 0x3FFF⟩
    ramBank := ⟨0x4000, 0x5FFF⟩
    enableMask := 0x0F
    enableValue := 0x0A
    romBankHighBit := 0
    ramBankBytes := Config.ramBankBytes }

/-- The register that a `WRITE` to 0x0000-0x7FFF reaches on `WideBank` (44_wide_bank.md R261). -/
def wideBankTarget (a : Addr) : WideBankTarget :=
  if wideBankMap.ramEnable.has a then .ramEnable
  else if wideBankMap.romBankLow.has a then .romBankLow
  else if wideBankMap.romBankHigh.has a then .romBankHigh
  else if wideBankMap.ramBank.has a then .ramBank
  else .ignored

end Sys2Proof
end

