-- ==== Sys2Proof/WellFormed.lean ====
section
/-! DEFINITION. When an operation is well formed: its address lies in the region its row of 30_encoding.md R105 names. -/

namespace Sys2Proof

/-- The address lies in one of the regions. -/
def inRegions (rs : List Region) (a : Addr) : Bool := rs.contains (regionOf a)

/-- The address is one that, on `WideBank`, writes the given register (44_wide_bank.md R261). -/
def writesWideBank (t : WideBankTarget) (a : Addr) : Bool :=
  inRegions [.e, .b, .s, .m] a && decide (wideBankTarget a = t)

/-- The "region" column of 30_encoding.md R105. -/
def Instr.wf : Instr → Bool
  | .con => true
  | .fin => true
  | .roTick => true
  | .roRdRom0 a => inRegions [.e, .b] a
  | .roRdRomx a => inRegions [.s, .m] a
  | .roRdWin a => inRegions [.w] a
  | .roWrRom a _ => inRegions [.e, .b, .s, .m] a
  | .roWrWin a _ => inRegions [.w] a
  | .roRdExt a => inRegions [.x1, .x2] a
  | .roWrExt a _ => inRegions [.x1, .x2] a
  | .linTick => true
  | .linRdRom0 a => inRegions [.e, .b] a
  | .linRdRomx a => inRegions [.s, .m] a
  | .linRdRam a => inRegions [.w] a
  | .linRdRamoff a => inRegions [.w] a
  | .linWrRamen a _ => inRegions [.e] a
  | .linWrRomb a _ => inRegions [.b] a
  | .linWrBanksel a _ => inRegions [.s] a
  | .linWrMode a _ => inRegions [.m] a
  | .linWrRam a _ => inRegions [.w] a
  | .linWrRamoff a _ => inRegions [.w] a
  | .linRdExt a => inRegions [.x1, .x2] a
  | .linWrExt a _ => inRegions [.x1, .x2] a
  | .wcTick => true
  | .wcRdRom0 a => inRegions [.e, .b] a
  | .wcRdRomx a => inRegions [.s, .m] a
  | .wcRdRam a => inRegions [.w] a
  | .wcRdRtc a => inRegions [.w] a
  | .wcRdBadsel a => inRegions [.w] a
  | .wcRdOff a => inRegions [.w] a
  | .wcWrEn a _ => inRegions [.e] a
  | .wcWrRomb a _ => inRegions [.b] a
  | .wcWrSel a _ => inRegions [.s] a
  | .wcWrLatch a _ => inRegions [.m] a
  | .wcWrRam a _ => inRegions [.w] a
  | .wcWrRtc a _ => inRegions [.w] a
  | .wcWrBadsel a _ => inRegions [.w] a
  | .wcWrOff a _ => inRegions [.w] a
  | .wcRdExt a => inRegions [.x1, .x2] a
  | .wcWrExt a _ => inRegions [.x1, .x2] a
  | .wbTick => true
  | .wbRdRom0 a => inRegions [.e, .b] a
  | .wbRdRomx a => inRegions [.s, .m] a
  | .wbRdRam a => inRegions [.w] a
  | .wbRdRamoff a => inRegions [.w] a
  | .wbWrRamen a _ => writesWideBank .ramEnable a
  | .wbWrRomb0 a _ => writesWideBank .romBankLow a
  | .wbWrRomb1 a _ => writesWideBank .romBankHigh a
  | .wbWrRamb a _ => writesWideBank .ramBank a
  | .wbWrNop a _ => writesWideBank .ignored a
  | .wbWrRam a _ => inRegions [.w] a
  | .wbWrRamoff a _ => inRegions [.w] a
  | .wbRdExt a => inRegions [.x1, .x2] a
  | .wbWrExt a _ => inRegions [.x1, .x2] a

end Sys2Proof
end

