-- ==== Sys2Proof/Decode.lean ====
section
/-! DEFINITION. Decoding an operation word under a mode (30_encoding.md R103 to R106, R109), the encoder (R100), and the
opcode table as data (R106). -/

namespace Sys2Proof

/-- Why a word is no operation (30_encoding.md R109). -/
inductive DecodeError where
  /-- `KIND` 5 to 7. -/
  | reservedKind
  /-- A `READ` whose D field is not 0. -/
  | readWithDatum
  /-- A `TICK`, `FINALIZE` or `CONSTRUCT` whose A or D field is not 0. -/
  | nonzeroFields
deriving DecidableEq, Repr

/-- `KIND`, bits 26:24 (30_encoding.md R100). -/
def kindField (w : OpWord) : BitVec 3 := w.extractLsb' 24 3

/-- `A`, bits 23:8 (30_encoding.md R100). -/
def addrField (w : OpWord) : Addr := w.extractLsb' 8 16

/-- `D`, bits 7:0 (30_encoding.md R100). -/
def datumField (w : OpWord) : Byte := w.extractLsb' 0 8

/-- A `READ` on `RomOnly` (30_encoding.md R105). -/
def decodeReadRomOnly (a : Addr) : Instr :=
  match regionOf a with
  | .e | .b => .roRdRom0 a
  | .s | .m => .roRdRomx a
  | .w => .roRdWin a
  | .x1 | .x2 => .roRdExt a

/-- A `READ` on `LinearBank` (30_encoding.md R105). -/
def decodeReadLinear (ramEnabled : Bool) (a : Addr) : Instr :=
  match regionOf a with
  | .e | .b => .linRdRom0 a
  | .s | .m => .linRdRomx a
  | .w => if ramEnabled then .linRdRam a else .linRdRamoff a
  | .x1 | .x2 => .linRdExt a

/-- A `READ` on `WideClock` (30_encoding.md R105, 42_wide_clock_bank.md R198). -/
def decodeReadWideClock (window : Window) (a : Addr) : Instr :=
  match regionOf a with
  | .e | .b => .wcRdRom0 a
  | .s | .m => .wcRdRomx a
  | .w =>
    match window with
    | .off => .wcRdOff a
    | .ram => .wcRdRam a
    | .rtc => .wcRdRtc a
    | .badSel => .wcRdBadsel a
  | .x1 | .x2 => .wcRdExt a

/-- A `READ` on `WideBank` (30_encoding.md R105). -/
def decodeReadWideBank (ramEnabled : Bool) (a : Addr) : Instr :=
  match regionOf a with
  | .e | .b => .wbRdRom0 a
  | .s | .m => .wbRdRomx a
  | .w => if ramEnabled then .wbRdRam a else .wbRdRamoff a
  | .x1 | .x2 => .wbRdExt a

/-- A `READ` under a mode (30_encoding.md R103). -/
def decodeRead (m : Mode) (a : Addr) : Instr :=
  match m with
  | .romOnly => decodeReadRomOnly a
  | .linearBank en => decodeReadLinear en a
  | .wideClock win => decodeReadWideClock win a
  | .wideBank en => decodeReadWideBank en a

/-- A `WRITE` on `RomOnly` (30_encoding.md R105). -/
def decodeWriteRomOnly (a : Addr) (d : Byte) : Instr :=
  match regionOf a with
  | .e | .b | .s | .m => .roWrRom a d
  | .w => .roWrWin a d
  | .x1 | .x2 => .roWrExt a d

/-- A `WRITE` on `LinearBank` (30_encoding.md R105). -/
def decodeWriteLinear (ramEnabled : Bool) (a : Addr) (d : Byte) : Instr :=
  match regionOf a with
  | .e => .linWrRamen a d
  | .b => .linWrRomb a d
  | .s => .linWrBanksel a d
  | .m => .linWrMode a d
  | .w => if ramEnabled then .linWrRam a d else .linWrRamoff a d
  | .x1 | .x2 => .linWrExt a d

/-- A `WRITE` on `WideClock` (30_encoding.md R105, 42_wide_clock_bank.md R198). -/
def decodeWriteWideClock (window : Window) (a : Addr) (d : Byte) : Instr :=
  match regionOf a with
  | .e => .wcWrEn a d
  | .b => .wcWrRomb a d
  | .s => .wcWrSel a d
  | .m => .wcWrLatch a d
  | .w =>
    match window with
    | .off => .wcWrOff a d
    | .ram => .wcWrRam a d
    | .rtc => .wcWrRtc a d
    | .badSel => .wcWrBadsel a d
  | .x1 | .x2 => .wcWrExt a d

/-- A register write on `WideBank`, by the address map of 44_wide_bank.md R261. -/
def decodeRegisterWriteWideBank (a : Addr) (d : Byte) : Instr :=
  match wideBankTarget a with
  | .ramEnable => .wbWrRamen a d
  | .romBankLow => .wbWrRomb0 a d
  | .romBankHigh => .wbWrRomb1 a d
  | .ramBank => .wbWrRamb a d
  | .ignored => .wbWrNop a d

/-- A `WRITE` on `WideBank` (30_encoding.md R105). -/
def decodeWriteWideBank (ramEnabled : Bool) (a : Addr) (d : Byte) : Instr :=
  match regionOf a with
  | .e | .b | .s | .m => decodeRegisterWriteWideBank a d
  | .w => if ramEnabled then .wbWrRam a d else .wbWrRamoff a d
  | .x1 | .x2 => .wbWrExt a d

/-- A `WRITE` under a mode (30_encoding.md R103). -/
def decodeWrite (m : Mode) (a : Addr) (d : Byte) : Instr :=
  match m with
  | .romOnly => decodeWriteRomOnly a d
  | .linearBank en => decodeWriteLinear en a d
  | .wideClock win => decodeWriteWideClock win a d
  | .wideBank en => decodeWriteWideBank en a d

/-- A `TICK` under a mode (30_encoding.md R105). -/
def decodeTick : Mode → Instr
  | .romOnly => .roTick
  | .linearBank _ => .linTick
  | .wideClock _ => .wcTick
  | .wideBank _ => .wbTick

/-- The operation an operation word stands for under a mode, or why it is none (30_encoding.md R100, R103, R109). -/
def decode (m : Mode) (w : OpWord) : Except DecodeError Instr :=
  let a := addrField w
  let d := datumField w
  match (kindField w).toNat with
  | 0 => if d = 0 then .ok (decodeRead m a) else .error .readWithDatum
  | 1 => .ok (decodeWrite m a d)
  | 2 => if a = 0 ∧ d = 0 then .ok (decodeTick m) else .error .nonzeroFields
  | 3 => if a = 0 ∧ d = 0 then .ok .fin else .error .nonzeroFields
  | 4 => if a = 0 ∧ d = 0 then .ok .con else .error .nonzeroFields
  | _ => .error .reservedKind

/-- The mode of the reset state: a `WideClock` instance with its window disabled (log entries 2 and 22). -/
def resetMode : Mode := .wideClock .off

/-- The operation the decoder reads, in the mode of the reset state, from a word given as a number. The word of this
hardware is bits 26:0; it carries neither the variant nor the enable state, so no word alone tells which variant's row is
meant (30_encoding.md R103; log entry 22). -/
def decodeTableWord (nbits w : Nat) : Option Instr :=
  match decode resetMode (BitVec.ofNat 27 (w % 2 ^ nbits)) with
  | .ok i => some i
  | .error _ => none

/-- `KIND`, `A`, `D` packed into a word (30_encoding.md R100). -/
def opWord (kind : BitVec 3) (a : Addr) (d : Byte) : OpWord := kind ++ a ++ d

/-- The word of an operation (30_encoding.md R100). -/
def encode : Instr → OpWord
  | .con => opWord 4 0 0
  | .fin => opWord 3 0 0
  | .roTick => opWord 2 0 0
  | .roRdRom0 a => opWord 0 a 0
  | .roRdRomx a => opWord 0 a 0
  | .roRdWin a => opWord 0 a 0
  | .roWrRom a d => opWord 1 a d
  | .roWrWin a d => opWord 1 a d
  | .roRdExt a => opWord 0 a 0
  | .roWrExt a d => opWord 1 a d
  | .linTick => opWord 2 0 0
  | .linRdRom0 a => opWord 0 a 0
  | .linRdRomx a => opWord 0 a 0
  | .linRdRam a => opWord 0 a 0
  | .linRdRamoff a => opWord 0 a 0
  | .linWrRamen a d => opWord 1 a d
  | .linWrRomb a d => opWord 1 a d
  | .linWrBanksel a d => opWord 1 a d
  | .linWrMode a d => opWord 1 a d
  | .linWrRam a d => opWord 1 a d
  | .linWrRamoff a d => opWord 1 a d
  | .linRdExt a => opWord 0 a 0
  | .linWrExt a d => opWord 1 a d
  | .wcTick => opWord 2 0 0
  | .wcRdRom0 a => opWord 0 a 0
  | .wcRdRomx a => opWord 0 a 0
  | .wcRdRam a => opWord 0 a 0
  | .wcRdRtc a => opWord 0 a 0
  | .wcRdBadsel a => opWord 0 a 0
  | .wcRdOff a => opWord 0 a 0
  | .wcWrEn a d => opWord 1 a d
  | .wcWrRomb a d => opWord 1 a d
  | .wcWrSel a d => opWord 1 a d
  | .wcWrLatch a d => opWord 1 a d
  | .wcWrRam a d => opWord 1 a d
  | .wcWrRtc a d => opWord 1 a d
  | .wcWrBadsel a d => opWord 1 a d
  | .wcWrOff a d => opWord 1 a d
  | .wcRdExt a => opWord 0 a 0
  | .wcWrExt a d => opWord 1 a d
  | .wbTick => opWord 2 0 0
  | .wbRdRom0 a => opWord 0 a 0
  | .wbRdRomx a => opWord 0 a 0
  | .wbRdRam a => opWord 0 a 0
  | .wbRdRamoff a => opWord 0 a 0
  | .wbWrRamen a d => opWord 1 a d
  | .wbWrRomb0 a d => opWord 1 a d
  | .wbWrRomb1 a d => opWord 1 a d
  | .wbWrRamb a d => opWord 1 a d
  | .wbWrNop a d => opWord 1 a d
  | .wbWrRam a d => opWord 1 a d
  | .wbWrRamoff a d => opWord 1 a d
  | .wbRdExt a => opWord 0 a 0
  | .wbWrExt a d => opWord 1 a d

/-- The "variant" and "cond" columns of 30_encoding.md R105. -/
def Instr.rowCond : Instr → RowCond
  | .con => .any
  | .fin => .any
  | .roTick => .romOnly
  | .roRdRom0 _ => .romOnly
  | .roRdRomx _ => .romOnly
  | .roRdWin _ => .romOnly
  | .roWrRom _ _ => .romOnly
  | .roWrWin _ _ => .romOnly
  | .roRdExt _ => .romOnly
  | .roWrExt _ _ => .romOnly
  | .linTick => .linearBank none
  | .linRdRom0 _ => .linearBank none
  | .linRdRomx _ => .linearBank none
  | .linRdRam _ => .linearBank (some true)
  | .linRdRamoff _ => .linearBank (some false)
  | .linWrRamen _ _ => .linearBank none
  | .linWrRomb _ _ => .linearBank none
  | .linWrBanksel _ _ => .linearBank none
  | .linWrMode _ _ => .linearBank none
  | .linWrRam _ _ => .linearBank (some true)
  | .linWrRamoff _ _ => .linearBank (some false)
  | .linRdExt _ => .linearBank none
  | .linWrExt _ _ => .linearBank none
  | .wcTick => .wideClock none
  | .wcRdRom0 _ => .wideClock none
  | .wcRdRomx _ => .wideClock none
  | .wcRdRam _ => .wideClock (some .ram)
  | .wcRdRtc _ => .wideClock (some .rtc)
  | .wcRdBadsel _ => .wideClock (some .badSel)
  | .wcRdOff _ => .wideClock (some .off)
  | .wcWrEn _ _ => .wideClock none
  | .wcWrRomb _ _ => .wideClock none
  | .wcWrSel _ _ => .wideClock none
  | .wcWrLatch _ _ => .wideClock none
  | .wcWrRam _ _ => .wideClock (some .ram)
  | .wcWrRtc _ _ => .wideClock (some .rtc)
  | .wcWrBadsel _ _ => .wideClock (some .badSel)
  | .wcWrOff _ _ => .wideClock (some .off)
  | .wcRdExt _ => .wideClock none
  | .wcWrExt _ _ => .wideClock none
  | .wbTick => .wideBank none
  | .wbRdRom0 _ => .wideBank none
  | .wbRdRomx _ => .wideBank none
  | .wbRdRam _ => .wideBank (some true)
  | .wbRdRamoff _ => .wideBank (some false)
  | .wbWrRamen _ _ => .wideBank none
  | .wbWrRomb0 _ _ => .wideBank none
  | .wbWrRomb1 _ _ => .wideBank none
  | .wbWrRamb _ _ => .wideBank none
  | .wbWrNop _ _ => .wideBank none
  | .wbWrRam _ _ => .wideBank (some true)
  | .wbWrRamoff _ _ => .wideBank (some false)
  | .wbRdExt _ => .wideBank none
  | .wbWrExt _ _ => .wideBank none

/-- An optional column entry admits a value: an empty entry admits every value. -/
def admits {α : Type} [DecidableEq α] : Option α → α → Bool
  | none, _ => true
  | some x, y => decide (x = y)

/-- The row's variant is the mode's and its condition holds (30_encoding.md R106). -/
def RowCond.holds : RowCond → Mode → Bool
  | .any, _ => true
  | .romOnly, .romOnly => true
  | .linearBank c, .linearBank en => admits c en
  | .wideClock c, .wideClock win => admits c win
  | .wideBank c, .wideBank en => admits c en
  | .romOnly, _ => false
  | .linearBank _, _ => false
  | .wideClock _, _ => false
  | .wideBank _, _ => false

/-- The operation is one of the mode: its row's variant and condition hold. -/
def Instr.appliesIn (i : Instr) (m : Mode) : Bool := i.rowCond.holds m

/-- One row of the opcode table (30_encoding.md R106). -/
structure OpcodeRow where
  mnemonic : String
  cond     : RowCond
  pattern  : OpWord
  mask     : OpWord
deriving DecidableEq, Repr

/-- A row matches a word under a mode: `(OP & mask) == match`, the variant is the row's, the condition holds (R106). -/
def OpcodeRow.hits (r : OpcodeRow) (m : Mode) (w : OpWord) : Bool :=
  decide (w &&& r.mask = r.pattern) && r.cond.holds m

/-- The rows of `CON`, `FIN` and `RomOnly`. -/
def opcodeRowsCommonRomOnly : List OpcodeRow :=
  [⟨"CON", .any, 0x4000000, 0x7FFFFFF⟩,
   ⟨"FIN", .any, 0x3000000, 0x7FFFFFF⟩,
   ⟨"RO.TICK", .romOnly, 0x2000000, 0x7FFFFFF⟩,
   ⟨"RO.RD.ROM0", .romOnly, 0x0000000, 0x7C000FF⟩,
   ⟨"RO.RD.ROMX", .romOnly, 0x0400000, 0x7C000FF⟩,
   ⟨"RO.RD.WIN", .romOnly, 0x0A00000, 0x7E000FF⟩,
   ⟨"RO.WR.ROM", .romOnly, 0x1000000, 0x7800000⟩,
   ⟨"RO.WR.WIN", .romOnly, 0x1A00000, 0x7E00000⟩,
   ⟨"RO.RD.EXT", .romOnly, 0x0800000, 0x7E000FF⟩,
   ⟨"RO.RD.EXT", .romOnly, 0x0C00000, 0x7C000FF⟩,
   ⟨"RO.WR.EXT", .romOnly, 0x1800000, 0x7E00000⟩,
   ⟨"RO.WR.EXT", .romOnly, 0x1C00000, 0x7C00000⟩]

/-- The rows of `LinearBank`. -/
def opcodeRowsLinear : List OpcodeRow :=
  [⟨"LIN.TICK", .linearBank none, 0x2000000, 0x7FFFFFF⟩,
   ⟨"LIN.RD.ROM0", .linearBank none, 0x0000000, 0x7C000FF⟩,
   ⟨"LIN.RD.ROMX", .linearBank none, 0x0400000, 0x7C000FF⟩,
   ⟨"LIN.RD.RAM", .linearBank (some true), 0x0A00000, 0x7E000FF⟩,
   ⟨"LIN.RD.RAMOFF", .linearBank (some false), 0x0A00000, 0x7E000FF⟩,
   ⟨"LIN.WR.RAMEN", .linearBank none, 0x1000000, 0x7E00000⟩,
   ⟨"LIN.WR.ROMB", .linearBank none, 0x1200000, 0x7E00000⟩,
   ⟨"LIN.WR.BANKSEL", .linearBank none, 0x1400000, 0x7E00000⟩,
   ⟨"LIN.WR.MODE", .linearBank none, 0x1600000, 0x7E00000⟩,
   ⟨"LIN.WR.RAM", .linearBank (some true), 0x1A00000, 0x7E00000⟩,
   ⟨"LIN.WR.RAMOFF", .linearBank (some false), 0x1A00000, 0x7E00000⟩,
   ⟨"LIN.RD.EXT", .linearBank none, 0x0800000, 0x7E000FF⟩,
   ⟨"LIN.RD.EXT", .linearBank none, 0x0C00000, 0x7C000FF⟩,
   ⟨"LIN.WR.EXT", .linearBank none, 0x1800000, 0x7E00000⟩,
   ⟨"LIN.WR.EXT", .linearBank none, 0x1C00000, 0x7C00000⟩]

/-- The rows of `WideClock`. -/
def opcodeRowsWideClock : List OpcodeRow :=
  [⟨"WC.TICK", .wideClock none, 0x2000000, 0x7FFFFFF⟩,
   ⟨"WC.RD.ROM0", .wideClock none, 0x0000000, 0x7C000FF⟩,
   ⟨"WC.RD.ROMX", .wideClock none, 0x0400000, 0x7C000FF⟩,
   ⟨"WC.RD.RAM", .wideClock (some .ram), 0x0A00000, 0x7E000FF⟩,
   ⟨"WC.RD.RTC", .wideClock (some .rtc), 0x0A00000, 0x7E000FF⟩,
   ⟨"WC.RD.BADSEL", .wideClock (some .badSel), 0x0A00000, 0x7E000FF⟩,
   ⟨"WC.RD.OFF", .wideClock (some .off), 0x0A00000, 0x7E000FF⟩,
   ⟨"WC.WR.EN", .wideClock none, 0x1000000, 0x7E00000⟩,
   ⟨"WC.WR.ROMB", .wideClock none, 0x1200000, 0x7E00000⟩,
   ⟨"WC.WR.SEL", .wideClock none, 0x1400000, 0x7E00000⟩,
   ⟨"WC.WR.LATCH", .wideClock none, 0x1600000, 0x7E00000⟩,
   ⟨"WC.WR.RAM", .wideClock (some .ram), 0x1A00000, 0x7E00000⟩,
   ⟨"WC.WR.RTC", .wideClock (some .rtc), 0x1A00000, 0x7E00000⟩,
   ⟨"WC.WR.BADSEL", .wideClock (some .badSel), 0x1A00000, 0x7E00000⟩,
   ⟨"WC.WR.OFF", .wideClock (some .off), 0x1A00000, 0x7E00000⟩,
   ⟨"WC.RD.EXT", .wideClock none, 0x0800000, 0x7E000FF⟩,
   ⟨"WC.RD.EXT", .wideClock none, 0x0C00000, 0x7C000FF⟩,
   ⟨"WC.WR.EXT", .wideClock none, 0x1800000, 0x7E00000⟩,
   ⟨"WC.WR.EXT", .wideClock none, 0x1C00000, 0x7C00000⟩]

/-- The rows of `WideBank`. -/
def opcodeRowsWideBank : List OpcodeRow :=
  [⟨"WB.TICK", .wideBank none, 0x2000000, 0x7FFFFFF⟩,
   ⟨"WB.RD.ROM0", .wideBank none, 0x0000000, 0x7C000FF⟩,
   ⟨"WB.RD.ROMX", .wideBank none, 0x0400000, 0x7C000FF⟩,
   ⟨"WB.RD.RAM", .wideBank (some true), 0x0A00000, 0x7E000FF⟩,
   ⟨"WB.RD.RAMOFF", .wideBank (some false), 0x0A00000, 0x7E000FF⟩,
   ⟨"WB.WR.RAMEN", .wideBank none, 0x1000000, 0x7E00000⟩,
   ⟨"WB.WR.ROMB0", .wideBank none, 0x1200000, 0x7F00000⟩,
   ⟨"WB.WR.ROMB1", .wideBank none, 0x1300000, 0x7F00000⟩,
   ⟨"WB.WR.RAMB", .wideBank none, 0x1400000, 0x7E00000⟩,
   ⟨"WB.WR.NOP", .wideBank none, 0x1600000, 0x7E00000⟩,
   ⟨"WB.WR.RAM", .wideBank (some true), 0x1A00000, 0x7E00000⟩,
   ⟨"WB.WR.RAMOFF", .wideBank (some false), 0x1A00000, 0x7E00000⟩,
   ⟨"WB.RD.EXT", .wideBank none, 0x0800000, 0x7E000FF⟩,
   ⟨"WB.RD.EXT", .wideBank none, 0x0C00000, 0x7C000FF⟩,
   ⟨"WB.WR.EXT", .wideBank none, 0x1800000, 0x7E00000⟩,
   ⟨"WB.WR.EXT", .wideBank none, 0x1C00000, 0x7C00000⟩]

/-- The opcode table, 62 rows (30_encoding.md R106, opcode_table.json). -/
def opcodeTable : List OpcodeRow :=
  opcodeRowsCommonRomOnly ++ opcodeRowsLinear ++ opcodeRowsWideClock ++ opcodeRowsWideBank

end Sys2Proof
end

