-- ==== Sys2Proof/Machine/State.lean ====
section
/-! DEFINITION. The state of the block (10_state.md R20), its faults, warnings, refusals and results, the requests the outside
issues, and the reset state (R42). Everything is plain data. -/

namespace Sys2Proof.Machine

/-- The fatal causes (60_exceptions.md R301), each with the value recorded. A meaning that raises one TAKES it: the next state
has the phase `faulted` (R305), so no step answers with the outcome `fault` (log entry 15). -/
inductive Fault where
  /-- `F_UNSUPPORTED_TYPE`: raised by `CON` on a type code the table does not support. Safe: the spec names the fault. -/
  | unsupportedType (code : Byte)
  /-- `F_RAM_INDEX`: raised by the six enabled RAM accesses when the offset is past the RAM. Safe: the spec names the fault. -/
  | ramIndex (offset : Nat)
  /-- `F_ROM_INDEX`: raised by a ROM read when the offset is past the image. Safe: the spec's own choice in place of a value
  nothing gives (log entry 13). -/
  | romIndex (offset : Nat)
deriving DecidableEq, Repr

/-- Why a request gets no meaning. Every refusal is safe: nothing is claimed of the machine after it. -/
inductive Refusal where
  /-- Raised by `exec`'s arm of an operation without a meaning; no arm is one. -/
  | notModelled (mnemonic : String)
  /-- Raised by `step` when no request is pending: there is no operation to apply (log entry 23). -/
  | noRequest
  /-- Raised by `step` on a word that is no operation (30_encoding.md R109). -/
  | notAnOperation (reason : DecodeError)
  /-- Raised by every operation but `CON` on an instance that is not `Live` (30_encoding.md R109, 60_exceptions.md R304). -/
  | notLive
  /-- Raised by a meaning applied to an address or a mode its table row does not match; `step` never does so (log entry 24). -/
  | rowDoesNotMatch
  /-- Raised by `CON`: the image is no non-zero multiple of 16 KiB (00_scope.md R12). -/
  | imageSize
  /-- Raised by `CON`: the save file has not the size of the store (00_scope.md R12). -/
  | saveFileSize
  /-- Raised by `CON`: the save file's RTC bytes are out of range (00_scope.md R12). -/
  | saveFileRtcRange
  /-- Raised by `CON`: `now` is earlier than the save file's timestamp (00_scope.md R12). -/
  | clockBeforeSave
deriving DecidableEq, Repr

/-- The recoverable conditions (60_exceptions.md R302), as records of the diagnostic log. -/
inductive Warning where
  /-- `W_RAM_DISABLED_READ`. -/
  | ramDisabledRead (a : Addr)
  /-- `W_RAM_DISABLED_WRITE`. -/
  | ramDisabledWrite (a : Addr) (d : Byte)
  /-- `W_BAD_SELECTOR_READ`. -/
  | badSelectorRead (selector : Byte)
  /-- `W_BAD_SELECTOR_WRITE`. -/
  | badSelectorWrite (selector : Byte) (d : Byte)
  /-- `W_PARTIAL_IO`. -/
  | partialIo
deriving DecidableEq, Repr

/-- The lifecycle phases (10_state.md R39, 60_exceptions.md R304). -/
inductive Phase where
  | live
  | finalized
  | faulted (cause : Fault)
deriving DecidableEq, Repr

/-- The result of an operation (30_encoding.md R102). A delegated operation carries the unchanged address and datum
(40_dispatch_romonly.md R130, R134, R135). -/
inductive Result where
  | byte (v : Byte)
  | done
  | delegatedRead (a : Addr)
  | delegatedWrite (a : Addr) (d : Byte)
  | constructed
  | fault (cause : Fault)
deriving DecidableEq, Repr

/-- A byte array: its size and the bytes that are not 0x00, by rising offset. Every offset below the size holds a byte; one
that is not listed holds 0x00 (log entry 21). `IMG`, `RAM`, `STORE` and a save file are such arrays. -/
structure Memory where
  size  : Nat
  cells : List Host.Cell
deriving DecidableEq, Repr

/-- What an offset holds that no cell lists (log entry 21). -/
def Memory.blank : Byte := 0

/-- The offsets rise strictly from `lo` on and no listed byte is the blank one. -/
def Memory.canonicalFrom : Nat → List Host.Cell → Bool
  | _, [] => true
  | lo, (k, v) :: t => decide (lo ≤ k) && decide (v ≠ Memory.blank) && Memory.canonicalFrom (k + 1) t

/-- The canonical form: cells canonical, every offset below the size. -/
def Memory.wf (m : Memory) : Bool :=
  Memory.canonicalFrom 0 m.cells && m.cells.all (fun c => decide (c.1 < m.size))

/-- An array of zero bytes. -/
def Memory.zeros (size : Nat) : Memory := { size := size, cells := [] }

/-- The bank-control registers of `LinearBank` (10_state.md R24). -/
structure LinearRegs where
  ramEnabled : Bool
  romBank    : BitVec 5
  bankSelect : BitVec 2
  modeSelect : BitVec 1
deriving DecidableEq, Repr

/-- The bank-control registers of `WideClock` (10_state.md R25). -/
structure WideClockRegs where
  ramAndTimerEnabled   : Bool
  romBank              : BitVec 7
  ramBankOrRtcRegister : Byte
  latch                : Byte
deriving DecidableEq, Repr

/-- The bank-control registers of `WideBank` (10_state.md R26). -/
structure WideBankRegs where
  ramEnabled  : Bool
  romBankLow  : Byte
  romBankHigh : BitVec 1
  ramBank     : BitVec 2
deriving DecidableEq, Repr

/-- One RTC register file of five 8-bit registers (10_state.md R28). -/
structure RtcFile where
  seconds : Byte
  minutes : Byte
  hours   : Byte
  dayLow  : Byte
  dayHigh : Byte
deriving DecidableEq, Repr

/-- The five registers of an RTC file, indices 0 to 4 (10_state.md R28). -/
inductive RtcReg where
  | seconds
  | minutes
  | hours
  | dayLow
  | dayHigh
deriving DecidableEq, Repr

/-- The RTC state of `WideClock` beside the latch register (10_state.md R28, R32, R33). -/
structure Rtc where
  live         : RtcFile
  latched      : RtcFile
  cycleCounter : BitVec 32
  lastSave     : Time
deriving DecidableEq, Repr

/-- The configuration of one instance (00_scope.md R9), written by `CON` only; `romSize` is `img.size`. -/
structure CartConfig where
  variant    : Variant
  img        : Memory
  ramSize    : Nat
  hasRam     : Bool
  hasBattery : Bool
  hasTimer   : Bool
  file0      : Option Memory
deriving DecidableEq, Repr

/-- The save file a `CONSTRUCT` finds (30_encoding.md R101, 45_persistent_store.md R280): none, a file of the host's, or the
store the previous session of this machine left behind (R286, 60_exceptions.md R304; log entry 17). -/
inductive SaveFile where
  | absent
  | bytes (content : Memory)
  | leftBehind
deriving DecidableEq, Repr

/-- How far the file system gets with a store transfer of the operation (45_persistent_store.md R291): all of it, or only its
first `n` bytes (log entry 19). -/
inductive Transfer where
  | complete
  | onlyFirst (n : Nat)
deriving DecidableEq, Repr

/-- The operands of `CONSTRUCT` beside `now` (30_encoding.md R101), and two inputs of the file system: how far the transfer of
`open` gets, the load of a save file or the creation of a store (45_persistent_store.md R284, R291; log entry 19), and what a
store that is being created holds where that transfer wrote nothing, by offset (log entry 45). -/
structure ConOperands where
  cartridgeType : Byte
  ramSizeBytes  : Nat
  img           : Memory
  file0         : SaveFile
  openTransfer  : Transfer
  unwritten     : List Host.Cell
deriving DecidableEq, Repr

/-- One operation as the outside issues it: the operation word and the operands that are not in it (30_encoding.md R101).
`transfer` is for the store transfer of the operation that is not `open`'s: the mirrored byte, the RTC block, a bulk copy. -/
structure Request where
  word          : OpWord
  cyclesElapsed : BitVec 32
  now           : Time
  con           : ConOperands
  transfer      : Transfer
deriving DecidableEq, Repr

/-- The state of the machine. `params` are the parameters of 00_scope.md R10, `cfg` the configuration of R9; the rest up to
`log` is the state of 10_state.md R20; `result`, `port` and `pending` carry the block's outputs and inputs (log entries 1, 10
and 39). The registers of a variant the instance is not stay at their reset values (log entry 20). -/
structure State where
  params  : Params
  cfg     : CartConfig
  lin     : LinearRegs
  wc      : WideClockRegs
  wb      : WideBankRegs
  rtc     : Rtc
  ram     : Memory
  store   : Option Memory
  phase   : Phase
  log     : List Warning
  result  : Result
  port    : Request
  pending : List Request
deriving DecidableEq, Repr

/-- Reset values of `LinearBank` (10_state.md R42; log entry 3). -/
def LinearRegs.reset (p : Params) : LinearRegs :=
  { ramEnabled := false, romBank := p.resetRomBank.setWidth 5, bankSelect := 0, modeSelect := 0 }

/-- Reset values of `WideClock` (10_state.md R42; log entries 3 and 4). -/
def WideClockRegs.reset (p : Params) : WideClockRegs :=
  { ramAndTimerEnabled := false, romBank := p.resetRomBank.setWidth 7, ramBankOrRtcRegister := 0, latch := p.latchInit }

/-- Reset values of `WideBank` (10_state.md R42; log entry 3). -/
def WideBankRegs.reset (p : Params) : WideBankRegs :=
  { ramEnabled := false, romBankLow := p.resetRomBank, romBankHigh := 0, ramBank := 0 }

/-- "RtcRegisters are created zeroed" (10_state.md R42). -/
def RtcFile.zero : RtcFile := { seconds := 0, minutes := 0, hours := 0, dayLow := 0, dayHigh := 0 }

/-- The RTC after reset, before any load: files zero, counter 0, `lastSave` the `now` of `CON` (10_state.md R42). -/
def Rtc.reset (now : Time) : Rtc := { live := .zero, latched := .zero, cycleCounter := 0, lastSave := now }

namespace State

/-- The `CON` request whose instance the reset state is. DESIGN CHOICE: the smallest cartridge that has every kind of state
(log entry 2). -/
def resetRequest : Request :=
  { word := 0x4000000
    cyclesElapsed := 0
    now := 0
    con := { cartridgeType := 0x10, ramSizeBytes := 32768, img := Memory.zeros 32768, file0 := .absent,
             openTransfer := .complete, unwritten := [] }
    transfer := .complete }

/-- The machine right after reset, that is right after `CON` (70_reset_and_hazards.md R330): every register as in 10_state.md
R42, for the cartridge of `resetRequest` (log entry 2). -/
def reset : State :=
  { params := Config.defaultParams
    cfg :=
      { variant := .wideClock
        img := Memory.zeros 32768
        ramSize := 32768
        hasRam := true
        hasBattery := true
        hasTimer := true
        file0 := none }
    lin := LinearRegs.reset Config.defaultParams
    wc := WideClockRegs.reset Config.defaultParams
    wb := WideBankRegs.reset Config.defaultParams
    rtc := Rtc.reset 0
    ram := Memory.zeros 32768
    store := some (Memory.zeros 32790)
    phase := .live
    log := []
    result := .constructed
    port := resetRequest
    pending := [] }

end State
end Sys2Proof.Machine
end

