-- ==== Sys2Proof/Machine/Flags.lean ====
section
/-! DEFINITION. The flags of the block (10_state.md R36): the enable test, the halt and day-carry bits of day-high, and the 9-bit
day counter (R29, R30). -/

namespace Sys2Proof.Machine

/-- "low nibble 0xA enables" (30_encoding.md R107). -/
def enables (d : Byte) : Bool := decide (d &&& 0x0F = 0x0A)

/-- The enable test of `WideBank`, from the record of its choices (44_wide_bank.md R261, R263). -/
def enablesWideBank (d : Byte) : Bool := decide (d &&& wideBankMap.enableMask = wideBankMap.enableValue)

/-- The halt flag, bit 6 of day-high (10_state.md R29). -/
def RtcFile.halted (f : RtcFile) : Bool := f.dayHigh.getLsbD 6

/-- The sticky day-carry flag, bit 7 of day-high (10_state.md R29). -/
def RtcFile.dayCarry (f : RtcFile) : Bool := f.dayHigh.getLsbD 7

/-- The day counter `(f[4][0] << 8) | f[3]` (10_state.md R30). -/
def RtcFile.day (f : RtcFile) : Nat := ((f.dayHigh &&& 0x01).toNat <<< 8) ||| f.dayLow.toNat

/-- The ranges of seconds, minutes and hours (10_state.md R28, R31). -/
def RtcFile.inRange (f : RtcFile) : Bool :=
  decide (f.seconds ≤ 59) && decide (f.minutes ≤ 59) && decide (f.hours ≤ 23)

end Sys2Proof.Machine
end

