-- ==== Sys2Proof/Machine/Operands.lean ====
section
/-! DEFINITION. What an operation's address and datum stand for: the routing from a bus address to an offset (20_memory.md R75
to R79), the register values cut out of the datum or the address (30_encoding.md R107, R108), and the selector classes
(10_state.md R35). -/

namespace Sys2Proof.Machine

/-- Offset in the image of a switchable-window address, in unbounded naturals (20_memory.md R76, R79). -/
def imgOffset (bank : Nat) (a : Addr) : Nat := bank * Config.romBankBytes + (a.toNat - 0x4000)

/-- Offset in the image of a bank 0 address (20_memory.md R75). -/
def imgOffsetBank0 (a : Addr) : Nat := a.toNat

/-- Offset in the external RAM of a RAM-window address (20_memory.md R77, R79). -/
def ramOffset (bank : Nat) (a : Addr) : Nat := bank * Config.ramBankBytes + (a.toNat - 0xA000)

/-- Offset in the external RAM of a RAM-window address on `WideBank` (44_wide_bank.md R269; the formula is D11's). -/
def ramOffsetWideBank (bank : Nat) (a : Addr) : Nat := bank * wideBankMap.ramBankBytes + (a.toNat - 0xA000)

/-- The bank the switchable window shows on `RomOnly` (40_dispatch_romonly.md R140; log entry 12). -/
def bankRomOnly : Nat := 1

/-- The effective bank of `LinearBank` (41_linear_bank.md R167). -/
def effBank (r : LinearRegs) : Nat :=
  (if r.modeSelect = 0 then r.bankSelect.toNat <<< 2 else 0) ||| r.romBank.toNat

/-- The bank the switchable window shows on `WideClock` (42_wide_clock_bank.md R197). -/
def bankWideClock (r : WideClockRegs) : Nat := r.romBank.toNat

/-- The bank the switchable window shows on `WideBank` (44_wide_bank.md R268). -/
def bankWideBank (r : WideBankRegs) : Nat := (r.romBankHigh.toNat <<< 8) ||| r.romBankLow.toNat

/-- The RAM bank on `LinearBank`: there is no bank term (41_linear_bank.md R169; log entry 14). -/
def ramBankLinear : Nat := 0

/-- A datum of exactly 0 is translated to 1, before any mask (30_encoding.md R108). -/
def zeroToOne (d : Byte) : Byte := if d = 0 then 1 else d

/-- `LIN.WR.ROMB` (41_linear_bank.md R164). -/
def romBankOfDatumLinear (d : Byte) : BitVec 5 := (zeroToOne d &&& 0x1F).setWidth 5

/-- `LIN.WR.BANKSEL` (41_linear_bank.md R165). -/
def bankSelectOfDatum (d : Byte) : BitVec 2 := (d &&& 0x02).setWidth 2

/-- `LIN.WR.MODE`: bit 0 of the address (41_linear_bank.md R166). -/
def modeSelectOfAddress (a : Addr) : BitVec 1 := (a &&& 0x0001).setWidth 1

/-- `WC.WR.ROMB` (42_wide_clock_bank.md R194). -/
def romBankOfDatumWideClock (d : Byte) : BitVec 7 := (zeroToOne d &&& 0x7F).setWidth 7

/-- `WB.WR.ROMB1`: the datum bit D11 names, bit 0 (44_wide_bank.md R265). -/
def romBankHighOfDatum (d : Byte) : BitVec 1 := d.extractLsb' wideBankMap.romBankHighBit 1

/-- `WB.WR.RAMB`: values up to 0x0F are taken, their low 2 bits; larger ones leave the bank as it was (44_wide_bank.md
R266). -/
def ramBankAfter (old : BitVec 2) (d : Byte) : BitVec 2 := if d ≤ 0x0F then (d &&& 0x03).setWidth 2 else old

/-- The classes of the selector register (10_state.md R35). -/
inductive Selector where
  | ram (bank : Nat)
  | rtc (reg : RtcReg)
  | unmapped
deriving DecidableEq, Repr

/-- The class of a selector value (10_state.md R28, R35): 0x00 to 0x03 a RAM bank, 0x08 to 0x0C an RTC register. -/
def selectorOf (v : Byte) : Selector :=
  if v ≤ 0x03 then .ram v.toNat
  else if v = 0x08 then .rtc .seconds
  else if v = 0x09 then .rtc .minutes
  else if v = 0x0A then .rtc .hours
  else if v = 0x0B then .rtc .dayLow
  else if v = 0x0C then .rtc .dayHigh
  else .unmapped

/-- The selector class as decode sees it (42_wide_clock_bank.md R198). -/
def windowOf : Selector → Window
  | .ram _ => .ram
  | .rtc _ => .rtc
  | .unmapped => .badSel

/-- A register of a file (10_state.md R28). -/
def RtcFile.get (f : RtcFile) : RtcReg → Byte
  | .seconds => f.seconds
  | .minutes => f.minutes
  | .hours => f.hours
  | .dayLow => f.dayLow
  | .dayHigh => f.dayHigh

/-- A file with one register replaced. -/
def RtcFile.set (f : RtcFile) (r : RtcReg) (v : Byte) : RtcFile :=
  match r with
  | .seconds => { f with seconds := v }
  | .minutes => { f with minutes := v }
  | .hours => { f with hours := v }
  | .dayLow => { f with dayLow := v }
  | .dayHigh => { f with dayHigh := v }

/-- The check of a direct RTC write (43_rtc.md R233): seconds and minutes below 60, hours below 24, the day registers any. -/
def rtcAccepts : RtcReg → Byte → Bool
  | .seconds, d => decide (d < 60)
  | .minutes, d => decide (d < 60)
  | .hours, d => decide (d < 24)
  | .dayLow, _ => true
  | .dayHigh, _ => true

/-- The sentinel byte a parameter stands for (00_scope.md R10). -/
def sentinelByte : Sentinel → Byte
  | .x00 => 0x00
  | .xFF => 0xFF

end Sys2Proof.Machine
end

