-- ==== Sys2Proof/Machine/Ops.lean ====
section
/-! DEFINITION. The named operations every meaning is written over: reading and writing byte arrays, the updates of one field of
the state, ending an operation, warnings, and the entry into a fault (60_exceptions.md R305). -/

namespace Sys2Proof.Machine

/-- The outcome of an operation. -/
abbrev Out := Host.Outcome State Fault Refusal

/-- The byte a cell list gives for an offset. -/
def Memory.lookup : List Host.Cell → Nat → Byte
  | [], _ => Memory.blank
  | (k, v) :: t, off => if k = off then v else Memory.lookup t off

/-- `MemRead` of one byte (00_scope.md R14). -/
def Memory.read (m : Memory) (off : Nat) : Byte := Memory.lookup m.cells off

/-- A cell list with one byte replaced, in canonical form again. -/
def Memory.place : List Host.Cell → Nat → Byte → List Host.Cell
  | [], off, v => if v = Memory.blank then [] else [(off, v)]
  | (k, x) :: t, off, v =>
    if off < k then (if v = Memory.blank then (k, x) :: t else (off, v) :: (k, x) :: t)
    else if off = k then (if v = Memory.blank then t else (k, v) :: t)
    else (k, x) :: Memory.place t off v

/-- `MemWrite` of one byte (00_scope.md R14); an offset past the end writes nothing (every rule tests the bound first). -/
def Memory.write (m : Memory) (off : Nat) (v : Byte) : Memory :=
  if off < m.size then { m with cells := Memory.place m.cells off v } else m

/-- `MemWrite` of several bytes, the first at the given offset. -/
def Memory.writeList (m : Memory) : Nat → List Byte → Memory
  | _, [] => m
  | off, v :: t => Memory.writeList (m.write off v) (off + 1) t

/-- `MemRead` of several bytes, the first from the given offset. -/
def Memory.readList (m : Memory) (off : Nat) : Nat → List Byte
  | 0 => []
  | n + 1 => m.read off :: Memory.readList m (off + 1) n

/-- The destination with its first `n` bytes replaced by those of the source. -/
def Memory.copyFirst (dst src : Memory) (n : Nat) : Memory :=
  { dst with
    cells := src.cells.filter (fun c => decide (c.1 < n)) ++ dst.cells.filter (fun c => decide (n ≤ c.1)) }

/-- The array of the given size with the listed bytes; a cell past the size is not taken. -/
def Memory.ofCells (size : Nat) (cells : List Host.Cell) : Memory :=
  { size := size, cells := cells.filter (fun c => decide (c.1 < size)) }

/-- The bytes of a number, least significant first (20_memory.md R85). -/
def leBytes : Nat → Nat → List Byte
  | 0, _ => []
  | n + 1, v => BitVec.ofNat 8 v :: leBytes n (v / 256)

/-- The number that bytes stand for, least significant first (20_memory.md R85). -/
def leValue : List Byte → Nat
  | [] => 0
  | b :: t => b.toNat + 256 * leValue t

/-- The state with another `cfg`. -/
def State.setCfg (s : State) (x : CartConfig) : State := { s with cfg := x }

/-- The state with another `lin`. -/
def State.setLin (s : State) (x : LinearRegs) : State := { s with lin := x }

/-- The state with another `wc`. -/
def State.setWc (s : State) (x : WideClockRegs) : State := { s with wc := x }

/-- The state with another `wb`. -/
def State.setWb (s : State) (x : WideBankRegs) : State := { s with wb := x }

/-- The state with another `rtc`. -/
def State.setRtc (s : State) (x : Rtc) : State := { s with rtc := x }

/-- The state with another `ram`. -/
def State.setRam (s : State) (x : Memory) : State := { s with ram := x }

/-- The state with another `store`. -/
def State.setStore (s : State) (x : Option Memory) : State := { s with store := x }

/-- The state with another `phase`. -/
def State.setPhase (s : State) (x : Phase) : State := { s with phase := x }

/-- The state with another `log`. -/
def State.setLog (s : State) (x : List Warning) : State := { s with log := x }

/-- The state with another `result`. -/
def State.setResult (s : State) (x : Result) : State := { s with result := x }

/-- The state with another `port`. -/
def State.setPort (s : State) (x : Request) : State := { s with port := x }

/-- The state with another `pending`. -/
def State.setPending (s : State) (x : List Request) : State := { s with pending := x }

/-- The selector class of the window on `WideClock` (42_wide_clock_bank.md R198). -/
def State.window (s : State) : Window :=
  if s.wc.ramAndTimerEnabled then windowOf (selectorOf s.wc.ramBankOrRtcRegister) else .off

/-- What decode depends on beside the word (30_encoding.md R103): the variant, the enable flag, the selector class. -/
def State.mode (s : State) : Mode :=
  match s.cfg.variant with
  | .romOnly => .romOnly
  | .linearBank => .linearBank s.lin.ramEnabled
  | .wideClock => .wideClock s.window
  | .wideBank => .wideBank s.wb.ramEnabled

/-- The first tests of every operation but `CON` (60_exceptions.md R308): the phase is `Live`; the operation is one of the
mode and its address lies in its region (what decode has already established, log entry 24). -/
def whenRow (i : Instr) (s : State) (meaning : Out) : Out :=
  if s.phase = .live then
    (if i.wf && i.appliesIn s.mode then meaning else .refused .rowDoesNotMatch)
  else .refused .notLive

/-- The operation ends with a result (30_encoding.md R102). -/
def complete (r : Result) (s : State) : Out := .next (s.setResult r)

/-- `warn` appends one record to the diagnostic log (00_scope.md R14). -/
def warn (w : Warning) (s : State) : State := s.setLog (s.log ++ [w])

/-- `raise`: taking a fault (60_exceptions.md R305). The phase becomes `Faulted` with the cause, the operation returns
`Fault`, nothing else changes. -/
def raise (f : Fault) (s : State) : Out := .next ((s.setPhase (.faulted f)).setResult (.fault f))

/-- A read of the image at an offset, with its bound (20_memory.md R82). -/
def readImage (off : Nat) (s : State) : Out :=
  if off < s.cfg.img.size then complete (.byte (s.cfg.img.read off)) s else raise (.romIndex off) s

/-- A read of the external RAM at an offset, with its bound (20_memory.md R83). -/
def readRam (off : Nat) (s : State) : Out :=
  if off < s.cfg.ramSize then complete (.byte (s.ram.read off)) s else raise (.ramIndex off) s

/-- The state after the external RAM has taken a byte. -/
def putRam (off : Nat) (d : Byte) (s : State) : State := s.setRam (s.ram.write off d)

/-- A write of the external RAM at an offset, with its bound (20_memory.md R83), then what the variant does after it (its
mirror). -/
def writeRam (off : Nat) (d : Byte) (mirror : State → State) (s : State) : Out :=
  if off < s.cfg.ramSize then complete .done (mirror (putRam off d s)) else raise (.ramIndex off) s

/-- A read handed to the external dispatcher (40_dispatch_romonly.md R134). -/
def delegateRead (a : Addr) (s : State) : Out := complete (.delegatedRead a) s

/-- A write handed to the external dispatcher (40_dispatch_romonly.md R135). -/
def delegateWrite (a : Addr) (d : Byte) (s : State) : Out := complete (.delegatedWrite a d) s

/-- A read of the disabled window: warning and sentinel (20_memory.md R84). -/
def disabledRead (a : Addr) (sentinel : Byte) (s : State) : Out :=
  complete (.byte sentinel) (warn (.ramDisabledRead a) s)

/-- A write to the disabled window: dropped with a warning (20_memory.md R84). -/
def disabledWrite (a : Addr) (d : Byte) (s : State) : Out := complete .done (warn (.ramDisabledWrite a d) s)

/-- The oldest request is taken from the queue and its operands stand at the port (log entry 1). -/
def takeRequest (r : Request) (rest : List Request) (s : State) : State := (s.setPort r).setPending rest

end Sys2Proof.Machine
end

