-- ==== Sys2Proof/Machine/Store.lean ====
section
/-! DEFINITION. The persistent store (45_persistent_store.md): its layout, loading, the snapshot, the write-through of one byte,
the bulk transfers of `LinearBank` and the persist of the RTC block. How many bytes a transfer moves is an input of the request:
`openTransfer` for the one of `open`, `transfer` for every other (R291; log entry 19). -/

namespace Sys2Proof.Machine

/-- Which instances have an open store (45_persistent_store.md R281). -/
def attachedAs (variant : Variant) (hasBattery : Bool) : Bool := hasBattery && decide (variant ≠ .romOnly)

/-- The instance is attached (45_persistent_store.md R281). -/
def CartConfig.attached (c : CartConfig) : Bool := attachedAs c.variant c.hasBattery

/-- The size of the store (45_persistent_store.md R283). -/
def storeSizeOf (variant : Variant) (ramSize : Nat) : Nat :=
  match variant with
  | .wideClock => ramSize + Config.rtcBlockBytes
  | .romOnly => ramSize
  | .linearBank => ramSize
  | .wideBank => ramSize

/-- The five bytes of a register file in the order of the block (45_persistent_store.md R282; log entry 36). -/
def RtcFile.bytes (f : RtcFile) : List Byte := [f.seconds, f.minutes, f.hours, f.dayLow, f.dayHigh]

/-- `RtcBlock()`: the 22 bytes (45_persistent_store.md R282). -/
def rtcBlock (r : Rtc) : List Byte :=
  r.live.bytes ++ r.latched.bytes ++ leBytes 4 r.cycleCounter.toNat ++ leBytes 8 r.lastSave.toNat

/-- A register file as it stands in a store (45_persistent_store.md R287). -/
def rtcFileAt (st : Memory) (off : Nat) : RtcFile :=
  { seconds := st.read off
    minutes := st.read (off + 1)
    hours := st.read (off + 2)
    dayLow := st.read (off + 3)
    dayHigh := st.read (off + 4) }

/-- The RTC block as it stands in a store at an offset (45_persistent_store.md R282, R287). -/
def rtcAt (st : Memory) (off : Nat) : Rtc :=
  { live := rtcFileAt st off
    latched := rtcFileAt st (off + 5)
    cycleCounter := BitVec.ofNat 32 (leValue (st.readList (off + 10) 4))
    lastSave := BitVec.ofNat 64 (leValue (st.readList (off + 14) 8)) }

/-- How many bytes a transfer of the given length moves (45_persistent_store.md R291). -/
def Transfer.moved (t : Transfer) (len : Nat) : Nat :=
  match t with
  | .complete => len
  | .onlyFirst n => min n len

/-- `W_PARTIAL_IO` when a transfer of the given length falls short (45_persistent_store.md R291). -/
def notePartial (t : Transfer) (len : Nat) (s : State) : State :=
  if t.moved len < len then warn .partialIo s else s

/-- `writeByte` of an accepted RAM write, when attached (45_persistent_store.md R285, 20_memory.md R88). -/
def mirrorByte (off : Nat) (d : Byte) (s : State) : State :=
  match s.store with
  | none => s
  | some st => notePartial s.port.transfer 1 (s.setStore (some (st.writeList off ([d].take (s.port.transfer.moved 1)))))

/-- `RAM <- STORE[0 .. ramSize)` when attached (45_persistent_store.md R290). -/
def loadRam (s : State) : State :=
  match s.store with
  | none => s
  | some st =>
    notePartial s.port.transfer s.cfg.ramSize
      (s.setRam (s.ram.copyFirst st (s.port.transfer.moved s.cfg.ramSize)))

/-- `STORE[0 .. ramSize) <- RAM` when attached (45_persistent_store.md R290). -/
def saveRam (s : State) : State :=
  match s.store with
  | none => s
  | some st =>
    notePartial s.port.transfer s.cfg.ramSize
      (s.setStore (some (st.copyFirst s.ram (s.port.transfer.moved s.cfg.ramSize))))

/-- `PersistRtcBlock(now)`: `lastSave <- now`; when attached, the block goes to the store behind the RAM
(45_persistent_store.md R289). -/
def persistRtcBlock (now : Time) (s : State) : State :=
  let s1 := s.setRtc { s.rtc with lastSave := now }
  match s1.store with
  | none => s1
  | some st =>
    notePartial s.port.transfer Config.rtcBlockBytes
      (s1.setStore (some
        (st.writeList s.cfg.ramSize ((rtcBlock s1.rtc).take (s.port.transfer.moved Config.rtcBlockBytes)))))

/-- The initial snapshot: the RAM, and on `WideClock` the RTC block behind it (45_persistent_store.md R288). -/
def snapshot (s : State) : Memory :=
  let ramPart : Memory := { size := storeSizeOf s.cfg.variant s.cfg.ramSize, cells := s.ram.cells }
  match s.cfg.variant with
  | .wideClock => ramPart.writeList s.cfg.ramSize (rtcBlock s.rtc)
  | .romOnly => ramPart
  | .linearBank => ramPart
  | .wideBank => ramPart

/-- The size of the store of this instance (45_persistent_store.md R283). -/
def State.storeSize (s : State) : Nat := storeSizeOf s.cfg.variant s.cfg.ramSize

/-- How many bytes the transfer of `open` moves (45_persistent_store.md R291). -/
def State.opened (s : State) : Nat := s.port.con.openTransfer.moved s.storeSize

/-- The snapshot with a save file's bytes over it: "the bytes present overwrite the front of the snapshot and the rest keeps the
snapshot's value" (45_persistent_store.md R284, R291). -/
def loadedImage (f : Memory) (s : State) : Memory := (snapshot s).copyFirst f s.opened

/-- A new store: the snapshot as far as the transfer gets, behind it bytes the request gives (45_persistent_store.md R284, R288,
R291; log entry 45). -/
def createdStore (s : State) : Memory :=
  (Memory.ofCells s.storeSize s.port.con.unwritten).copyFirst (snapshot s) s.opened

/-- Loading the state (45_persistent_store.md R287) from the image of a store. -/
def loadState (st : Memory) (s : State) : State :=
  let s1 := s.setRam (s.ram.copyFirst st s.cfg.ramSize)
  match s.cfg.variant with
  | .wideClock => s1.setRtc (rtcAt st s.cfg.ramSize)
  | .romOnly => s1
  | .linearBank => s1
  | .wideBank => s1

/-- `open`, called by `CON`: an existing file wins and is loaded, otherwise the store is created from the snapshot; without
battery, or on `RomOnly`, there is no store (45_persistent_store.md R281, R284). A transfer that falls short is noted (R291). -/
def openStore (s : State) : State :=
  if s.cfg.attached then
    notePartial s.port.con.openTransfer s.storeSize
      (match s.cfg.file0 with
        | some f => loadState (loadedImage f s) (s.setStore (some f))
        | none => s.setStore (some (createdStore s)))
  else s.setStore none

/-- `close`: releases the file; no byte of the store changes (45_persistent_store.md R286). -/
def closeStore (s : State) : State := s

end Sys2Proof.Machine
end

