-- ==== Sys2Proof/Machine/RtcAdvance.lean ====
section
/-! DEFINITION. The carry chain of the RTC (43_rtc.md R221 to R225) and the fast-forward (R250). -/

namespace Sys2Proof.Machine

/-- `AdvanceDay()`: the 9-bit day counter wraps at 512 and the wrap sets the sticky day-carry (43_rtc.md R221). -/
def advanceDay (f : RtcFile) : RtcFile :=
  let next := f.day + 1
  let d := if next = 512 then 0 else next
  let high := if next = 512 then f.dayHigh ||| 0x80 else f.dayHigh
  { f with
    dayLow := BitVec.ofNat 8 d
    dayHigh := (high &&& 0xFE) ||| BitVec.ofNat 8 (d >>> 8) }

/-- `AdvanceHour()` (43_rtc.md R222). -/
def advanceHour (f : RtcFile) : RtcFile :=
  let h := f.hours + 1
  if h = 24 then advanceDay { f with hours := 0 } else { f with hours := h }

/-- `AdvanceMinute()` (43_rtc.md R223). -/
def advanceMinute (f : RtcFile) : RtcFile :=
  let m := f.minutes + 1
  if m = 60 then advanceHour { f with minutes := 0 } else { f with minutes := m }

/-- `AdvanceSecond()` (43_rtc.md R224). -/
def advanceSecond (f : RtcFile) : RtcFile :=
  let c := f.seconds + 1
  if c = 60 then advanceMinute { f with seconds := 0 } else { f with seconds := c }

/-- The advances of the fast-forward over `e` elapsed seconds: days first, then the remaining hours, minutes and seconds, each
through the carry chain (43_rtc.md R250, R251). -/
def advanceElapsed (e : Nat) (f : RtcFile) : RtcFile :=
  let f1 := advanceDay^[e / 86400] f
  let f2 := advanceHour^[(e % 86400) / 3600] f1
  let f3 := advanceMinute^[(e % 3600) / 60] f2
  advanceSecond^[e % 60] f3

/-- `FastForward(now)` (43_rtc.md R250): a halted clock is not advanced; the block is persisted in any case. `CON` has refused
a `now` before `lastSave` (00_scope.md R12). -/
def fastForward (now : Time) (s : State) : State :=
  let live := if s.rtc.live.halted then s.rtc.live else advanceElapsed (now.toNat - s.rtc.lastSave.toNat) s.rtc.live
  persistRtcBlock now (s.setRtc { s.rtc with live := live })

end Sys2Proof.Machine
end

