-- ==== Sys2Proof/Machine/Construct.lean ====
section
/-! DEFINITION. Construction and finalisation: `CON` (40_dispatch_romonly.md R132) and `FIN` (R133). -/

namespace Sys2Proof.Machine

/-- `TYPE_TABLE`: the first entry for the code; a code without an entry is `Unsupported` (00_scope.md R10). -/
def typeOf : List (Byte × CartType) → Byte → Option CartType
  | [], _ => none
  | (c, t) :: rest, code => if c = code then some t else typeOf rest code

/-- `RAM_INIT` for a RAM of the given size (00_scope.md R10). -/
def initialRam (p : Params) (size : Nat) : Memory := Memory.ofCells size p.ramInit

/-- `FILE0`: the save file this `CON` finds (45_persistent_store.md R280; log entry 17). -/
def saveFileFound (s : State) : Option Memory :=
  match s.port.con.file0 with
  | .absent => none
  | .bytes f => some f
  | .leftBehind => s.store

/-- Steps 2 and 3 of `CON`: the configuration, every register at its reset value (10_state.md R42), the RAM at `RAM_INIT`.
DESIGN CHOICE: the log is emptied here, before the load and the fast-forward, as R42 gives it; R132 empties it as step 6, after
them. A `W_PARTIAL_IO` of the load, the creation or the fast-forward's persist therefore stays in the new log (log entry 44). -/
def resetInstance (t : CartType) (s : State) : State :=
  { params := s.params
    cfg :=
      { variant := t.variant
        img := s.port.con.img
        ramSize := s.port.con.ramSizeBytes
        hasRam := t.hasRam
        hasBattery := t.hasBattery
        hasTimer := t.hasTimer
        file0 := saveFileFound s }
    lin := LinearRegs.reset s.params
    wc := WideClockRegs.reset s.params
    wb := WideBankRegs.reset s.params
    rtc := Rtc.reset s.port.now
    ram := initialRam s.params s.port.con.ramSizeBytes
    store := none
    phase := .live
    log := []
    result := .constructed
    port := s.port
    pending := s.pending }

/-- The precondition on the image (00_scope.md R12). -/
def imageSizeOk (img : Memory) : Bool :=
  decide (img.size % Config.romBankBytes = 0) && decide (Config.romBankBytes ≤ img.size)

/-- The preconditions on the RTC block loaded from a save file (00_scope.md R12). -/
def saveBlockProblem (now : Time) (r : Rtc) : Option Refusal :=
  if r.live.inRange && r.latched.inRange then
    (if r.lastSave ≤ now then none else some .clockBeforeSave)
  else some .saveFileRtcRange

/-- The preconditions on the save file of an attached instance (00_scope.md R12): its size, and the fields loaded from it. -/
def saveFileProblem (t : CartType) (f : Memory) (s : State) : Option Refusal :=
  if f.size = storeSizeOf t.variant s.port.con.ramSizeBytes then
    match t.variant with
    | .wideClock =>
      saveBlockProblem s.port.now (rtcAt (loadedImage f (resetInstance t s)) s.port.con.ramSizeBytes)
    | .romOnly => none
    | .linearBank => none
    | .wideBank => none
  else some .saveFileSize

/-- The preconditions of `CON`, for a supported type (00_scope.md R12; log entry 18). -/
def conProblem (t : CartType) (s : State) : Option Refusal :=
  if imageSizeOk s.port.con.img then
    (if attachedAs t.variant t.hasBattery then
      match saveFileFound s with
      | some f => saveFileProblem t f s
      | none => none
    else none)
  else some .imageSize

/-- Step 5 of `CON`: the fast-forward runs on `WideClock` with timer and battery (43_rtc.md R250, R253). -/
def fastForwardIfClocked (s : State) : State :=
  if s.cfg.variant = .wideClock ∧ s.cfg.hasTimer = true ∧ s.cfg.hasBattery = true then fastForward s.port.now s else s

/-- `CON` (40_dispatch_romonly.md R132): the type code first, then the preconditions, then reset, store and fast-forward. It
is accepted in every phase: it builds a new instance (60_exceptions.md R304; log entry 16). -/
def execCon (s : State) : Out :=
  match typeOf s.params.typeTable s.port.con.cartridgeType with
  | none => raise (.unsupportedType s.port.con.cartridgeType) s
  | some t =>
    match conProblem t s with
    | some r => .refused r
    | none => complete .constructed (fastForwardIfClocked (openStore (resetInstance t s)))

/-- `FIN` (40_dispatch_romonly.md R133): the store is closed and keeps its content; nothing new is saved (log entry 25). -/
def execFin (s : State) : Out :=
  whenRow .fin s (complete .done ((closeStore s).setPhase .finalized))

end Sys2Proof.Machine
end

