-- ==== Sys2Proof/Machine/LinearBank.lean ====
section
/-! DEFINITION. The operations of `LinearBank` (41_linear_bank.md; the common ones 40_dispatch_romonly.md R131, R134 to R136). -/

namespace Sys2Proof.Machine

/-- `LIN.TICK` (R136): nothing. -/
def execLinTick (s : State) : Out := whenRow .linTick s (complete .done s)

/-- `LIN.RD.ROM0` (R131). -/
def execLinRdRom0 (a : Addr) (s : State) : Out := whenRow (.linRdRom0 a) s (readImage (imgOffsetBank0 a) s)

/-- `LIN.RD.ROMX` (R168). -/
def execLinRdRomx (a : Addr) (s : State) : Out := whenRow (.linRdRomx a) s (readImage (imgOffset (effBank s.lin) a) s)

/-- `LIN.RD.RAM` (R170). -/
def execLinRdRam (a : Addr) (s : State) : Out := whenRow (.linRdRam a) s (readRam (ramOffset ramBankLinear a) s)

/-- `LIN.RD.RAMOFF` (R172). -/
def execLinRdRamoff (a : Addr) (s : State) : Out := whenRow (.linRdRamoff a) s (disabledRead a 0x00 s)

/-- The whole-buffer copy of an enable write (R163): load on the rising edge, save on the falling edge, else nothing. -/
def linearEdge (new : Bool) (s : State) : State :=
  if new then (if s.lin.ramEnabled then s else loadRam s) else (if s.lin.ramEnabled then saveRam s else s)

/-- `LIN.WR.RAMEN` (R163). -/
def execLinWrRamen (a : Addr) (d : Byte) (s : State) : Out :=
  whenRow (.linWrRamen a d) s
    (complete .done ((linearEdge (enables d) s).setLin { s.lin with ramEnabled := enables d }))

/-- `LIN.WR.ROMB` (R164). -/
def execLinWrRomb (a : Addr) (d : Byte) (s : State) : Out :=
  whenRow (.linWrRomb a d) s (complete .done (s.setLin { s.lin with romBank := romBankOfDatumLinear d }))

/-- `LIN.WR.BANKSEL` (R165). -/
def execLinWrBanksel (a : Addr) (d : Byte) (s : State) : Out :=
  whenRow (.linWrBanksel a d) s (complete .done (s.setLin { s.lin with bankSelect := bankSelectOfDatum d }))

/-- `LIN.WR.MODE` (R166): from the address; the datum plays no part. -/
def execLinWrMode (a : Addr) (d : Byte) (s : State) : Out :=
  whenRow (.linWrMode a d) s (complete .done (s.setLin { s.lin with modeSelect := modeSelectOfAddress a }))

/-- `LIN.WR.RAM` (R171): no write-through. -/
def execLinWrRam (a : Addr) (d : Byte) (s : State) : Out :=
  whenRow (.linWrRam a d) s (writeRam (ramOffset ramBankLinear a) d id s)

/-- `LIN.WR.RAMOFF` (R173). -/
def execLinWrRamoff (a : Addr) (d : Byte) (s : State) : Out := whenRow (.linWrRamoff a d) s (disabledWrite a d s)

/-- `LIN.RD.EXT` (R134). -/
def execLinRdExt (a : Addr) (s : State) : Out := whenRow (.linRdExt a) s (delegateRead a s)

/-- `LIN.WR.EXT` (R135). -/
def execLinWrExt (a : Addr) (d : Byte) (s : State) : Out := whenRow (.linWrExt a d) s (delegateWrite a d s)

end Sys2Proof.Machine
end

