-- ==== Sys2Proof/Machine/RomOnly.lean ====
section
/-! DEFINITION. The operations of `RomOnly` (40_dispatch_romonly.md R131, R134 to R136, R140 to R143). -/

namespace Sys2Proof.Machine

/-- `RO.TICK` (R136): nothing. -/
def execRoTick (s : State) : Out := whenRow .roTick s (complete .done s)

/-- `RO.RD.ROM0` (R131). -/
def execRoRdRom0 (a : Addr) (s : State) : Out := whenRow (.roRdRom0 a) s (readImage (imgOffsetBank0 a) s)

/-- `RO.RD.ROMX` (R140). -/
def execRoRdRomx (a : Addr) (s : State) : Out := whenRow (.roRdRomx a) s (readImage (imgOffset bankRomOnly a) s)

/-- `RO.RD.WIN` (R142): the window is never enabled. -/
def execRoRdWin (a : Addr) (s : State) : Out :=
  whenRow (.roRdWin a) s (disabledRead a (sentinelByte s.params.disabledReadRomOnly) s)

/-- `RO.WR.ROM` (R141): ignored. -/
def execRoWrRom (a : Addr) (d : Byte) (s : State) : Out := whenRow (.roWrRom a d) s (complete .done s)

/-- `RO.WR.WIN` (R143): dropped with a warning. -/
def execRoWrWin (a : Addr) (d : Byte) (s : State) : Out := whenRow (.roWrWin a d) s (disabledWrite a d s)

/-- `RO.RD.EXT` (R134). -/
def execRoRdExt (a : Addr) (s : State) : Out := whenRow (.roRdExt a) s (delegateRead a s)

/-- `RO.WR.EXT` (R135). -/
def execRoWrExt (a : Addr) (d : Byte) (s : State) : Out := whenRow (.roWrExt a d) s (delegateWrite a d s)

end Sys2Proof.Machine
end

