-- ==== Sys2Proof/Machine/WideBank.lean ====
section
/-! DEFINITION. The operations of `WideBank` (44_wide_bank.md; the common ones 40_dispatch_romonly.md R131, R134 to R136). The
address ranges, the enable test, the high bank bit and the RAM formula are the choices of D11 (log entry 11). -/

namespace Sys2Proof.Machine

/-- `WB.TICK` (R136): nothing. -/
def execWbTick (s : State) : Out := whenRow .wbTick s (complete .done s)

/-- `WB.RD.ROM0` (R131). -/
def execWbRdRom0 (a : Addr) (s : State) : Out := whenRow (.wbRdRom0 a) s (readImage (imgOffsetBank0 a) s)

/-- `WB.RD.ROMX` (R268). -/
def execWbRdRomx (a : Addr) (s : State) : Out :=
  whenRow (.wbRdRomx a) s (readImage (imgOffset (bankWideBank s.wb) a) s)

/-- `WB.RD.RAM` (R269). -/
def execWbRdRam (a : Addr) (s : State) : Out :=
  whenRow (.wbRdRam a) s (readRam (ramOffsetWideBank s.wb.ramBank.toNat a) s)

/-- `WB.RD.RAMOFF` (R271). -/
def execWbRdRamoff (a : Addr) (s : State) : Out :=
  whenRow (.wbRdRamoff a) s (disabledRead a (sentinelByte s.params.disabledReadWideBank) s)

/-- `WB.WR.RAMEN` (R263): no load, no save. -/
def execWbWrRamen (a : Addr) (d : Byte) (s : State) : Out :=
  whenRow (.wbWrRamen a d) s (complete .done (s.setWb { s.wb with ramEnabled := enablesWideBank d }))

/-- `WB.WR.ROMB0` (R264): 0 is not translated. -/
def execWbWrRomb0 (a : Addr) (d : Byte) (s : State) : Out :=
  whenRow (.wbWrRomb0 a d) s (complete .done (s.setWb { s.wb with romBankLow := d }))

/-- `WB.WR.ROMB1` (R265). -/
def execWbWrRomb1 (a : Addr) (d : Byte) (s : State) : Out :=
  whenRow (.wbWrRomb1 a d) s (complete .done (s.setWb { s.wb with romBankHigh := romBankHighOfDatum d }))

/-- `WB.WR.RAMB` (R266). -/
def execWbWrRamb (a : Addr) (d : Byte) (s : State) : Out :=
  whenRow (.wbWrRamb a d) s (complete .done (s.setWb { s.wb with ramBank := ramBankAfter s.wb.ramBank d }))

/-- `WB.WR.NOP` (R267): nothing. -/
def execWbWrNop (a : Addr) (d : Byte) (s : State) : Out := whenRow (.wbWrNop a d) s (complete .done s)

/-- `WB.WR.RAM` (R270): write-through. -/
def execWbWrRam (a : Addr) (d : Byte) (s : State) : Out :=
  whenRow (.wbWrRam a d) s
    (writeRam (ramOffsetWideBank s.wb.ramBank.toNat a) d
      (mirrorByte (ramOffsetWideBank s.wb.ramBank.toNat a) d) s)

/-- `WB.WR.RAMOFF` (R272). -/
def execWbWrRamoff (a : Addr) (d : Byte) (s : State) : Out := whenRow (.wbWrRamoff a d) s (disabledWrite a d s)

/-- `WB.RD.EXT` (R134). -/
def execWbRdExt (a : Addr) (s : State) : Out := whenRow (.wbRdExt a) s (delegateRead a s)

/-- `WB.WR.EXT` (R135). -/
def execWbWrExt (a : Addr) (d : Byte) (s : State) : Out := whenRow (.wbWrExt a d) s (delegateWrite a d s)

end Sys2Proof.Machine
end

