-- ==== Sys2Proof/Machine/WideClock.lean ====
section
/-! DEFINITION. The operations of `WideClock` (42_wide_clock_bank.md, 43_rtc.md; the common ones 40_dispatch_romonly.md R131,
R134, R135). -/

namespace Sys2Proof.Machine

/-- The cycles of a `TICK` are accumulated, modulo 2^32, whether the clock is halted or not (43_rtc.md R240, R241, R243). -/
def accumulate (s : State) : State :=
  s.setRtc { s.rtc with cycleCounter := s.rtc.cycleCounter + s.port.cyclesElapsed }

/-- "reduce the counter modulo the tick frequency" (43_rtc.md R240, R242). -/
def reduceCounter (s : State) : State :=
  s.setRtc { s.rtc with cycleCounter := BitVec.ofNat 32 (s.rtc.cycleCounter.toNat % s.params.tickFreq) }

/-- A second is due: the clock is not halted and the counter has reached the tick frequency (43_rtc.md R240). -/
def secondDue (s : State) : Bool :=
  !s.rtc.live.halted && decide (s.params.tickFreq ≤ s.rtc.cycleCounter.toNat)

/-- One second is emitted: advance, then persist and reduce in the order the parameter names (43_rtc.md R240). -/
def emitSecond (s : State) : State :=
  let s1 := s.setRtc { s.rtc with live := advanceSecond s.rtc.live }
  if s.params.persistBeforeReduce then reduceCounter (persistRtcBlock s.port.now s1)
  else persistRtcBlock s.port.now (reduceCounter s1)

/-- `WC.TICK` (43_rtc.md R240 to R244). -/
def execWcTick (s : State) : Out :=
  whenRow .wcTick s
    (complete .done (if secondDue (accumulate s) then emitSecond (accumulate s) else accumulate s))

/-- `WC.RD.ROM0` (R131). -/
def execWcRdRom0 (a : Addr) (s : State) : Out := whenRow (.wcRdRom0 a) s (readImage (imgOffsetBank0 a) s)

/-- `WC.RD.ROMX` (42_wide_clock_bank.md R197). -/
def execWcRdRomx (a : Addr) (s : State) : Out :=
  whenRow (.wcRdRomx a) s (readImage (imgOffset (bankWideClock s.wc) a) s)

/-- `WC.RD.RAM` (42_wide_clock_bank.md R199). -/
def execWcRdRam (a : Addr) (s : State) : Out :=
  whenRow (.wcRdRam a) s (readRam (ramOffset s.wc.ramBankOrRtcRegister.toNat a) s)

/-- What the meaning of an RTC access does with the selected register; the row holds only for an RTC selector. -/
def withRtcReg (s : State) (meaning : RtcReg → Out) : Out :=
  match selectorOf s.wc.ramBankOrRtcRegister with
  | .rtc r => meaning r
  | .ram _ => .refused .rowDoesNotMatch
  | .unmapped => .refused .rowDoesNotMatch

/-- `WC.RD.RTC` (43_rtc.md R232): the latched file. -/
def execWcRdRtc (a : Addr) (s : State) : Out :=
  whenRow (.wcRdRtc a) s (withRtcReg s fun r => complete (.byte (s.rtc.latched.get r)) s)

/-- `WC.RD.BADSEL` (42_wide_clock_bank.md R200). -/
def execWcRdBadsel (a : Addr) (s : State) : Out :=
  whenRow (.wcRdBadsel a) s
    (complete (.byte 0x00) (warn (.badSelectorRead s.wc.ramBankOrRtcRegister) s))

/-- `WC.RD.OFF` (42_wide_clock_bank.md R201). -/
def execWcRdOff (a : Addr) (s : State) : Out := whenRow (.wcRdOff a) s (disabledRead a 0x00 s)

/-- `WC.WR.EN` (42_wide_clock_bank.md R193). -/
def execWcWrEn (a : Addr) (d : Byte) (s : State) : Out :=
  whenRow (.wcWrEn a d) s (complete .done (s.setWc { s.wc with ramAndTimerEnabled := enables d }))

/-- `WC.WR.ROMB` (42_wide_clock_bank.md R194). -/
def execWcWrRomb (a : Addr) (d : Byte) (s : State) : Out :=
  whenRow (.wcWrRomb a d) s (complete .done (s.setWc { s.wc with romBank := romBankOfDatumWideClock d }))

/-- `WC.WR.SEL` (42_wide_clock_bank.md R195): stored verbatim. -/
def execWcWrSel (a : Addr) (d : Byte) (s : State) : Out :=
  whenRow (.wcWrSel a d) s (complete .done (s.setWc { s.wc with ramBankOrRtcRegister := d }))

/-- The copy of `live` into `latched` on the 0 to 1 edge (43_rtc.md R230). -/
def latchCopy (d : Byte) (s : State) : State :=
  if s.wc.latch = 0x00 ∧ d = 0x01 then s.setRtc { s.rtc with latched := s.rtc.live } else s

/-- `WC.WR.LATCH` (43_rtc.md R230, R231). -/
def execWcWrLatch (a : Addr) (d : Byte) (s : State) : Out :=
  whenRow (.wcWrLatch a d) s (complete .done ((latchCopy d s).setWc { s.wc with latch := d }))

/-- `WC.WR.RAM` (42_wide_clock_bank.md R202): write-through. -/
def execWcWrRam (a : Addr) (d : Byte) (s : State) : Out :=
  whenRow (.wcWrRam a d) s
    (writeRam (ramOffset s.wc.ramBankOrRtcRegister.toNat a) d
      (mirrorByte (ramOffset s.wc.ramBankOrRtcRegister.toNat a) d) s)

/-- An accepted RTC write: both files take the datum, then the block is persisted (43_rtc.md R233). -/
def writeRtc (r : RtcReg) (d : Byte) (s : State) : State :=
  persistRtcBlock s.port.now
    (s.setRtc { s.rtc with live := s.rtc.live.set r d, latched := s.rtc.latched.set r d })

/-- `WC.WR.RTC` (43_rtc.md R233, R234): out-of-range data are ignored without a warning. -/
def execWcWrRtc (a : Addr) (d : Byte) (s : State) : Out :=
  whenRow (.wcWrRtc a d) s
    (withRtcReg s fun r => complete .done (if rtcAccepts r d then writeRtc r d s else s))

/-- `WC.WR.BADSEL` (42_wide_clock_bank.md R203; log entry 27). -/
def execWcWrBadsel (a : Addr) (d : Byte) (s : State) : Out :=
  whenRow (.wcWrBadsel a d) s
    (complete .done (warn (.badSelectorWrite s.wc.ramBankOrRtcRegister d) s))

/-- `WC.WR.OFF` (42_wide_clock_bank.md R204). -/
def execWcWrOff (a : Addr) (d : Byte) (s : State) : Out := whenRow (.wcWrOff a d) s (disabledWrite a d s)

/-- `WC.RD.EXT` (R134). -/
def execWcRdExt (a : Addr) (s : State) : Out := whenRow (.wcRdExt a) s (delegateRead a s)

/-- `WC.WR.EXT` (R135). -/
def execWcWrExt (a : Addr) (d : Byte) (s : State) : Out := whenRow (.wcWrExt a d) s (delegateWrite a d s)

end Sys2Proof.Machine
end

