-- ==== Sys2Proof/Machine/Dispatch.lean ====
section
/-! DEFINITION. The meaning of each operation: one arm per constructor of `Instr`. -/

namespace Sys2Proof.Machine

def exec (i : Instr) (s : State) : Host.Outcome State Fault Refusal :=
  match i with
  | .con => Sys2Proof.Machine.execCon s
  | .fin => Sys2Proof.Machine.execFin s
  | .roTick => Sys2Proof.Machine.execRoTick s
  | .roRdRom0 a => Sys2Proof.Machine.execRoRdRom0 a s
  | .roRdRomx a => Sys2Proof.Machine.execRoRdRomx a s
  | .roRdWin a => Sys2Proof.Machine.execRoRdWin a s
  | .roWrRom a d => Sys2Proof.Machine.execRoWrRom a d s
  | .roWrWin a d => Sys2Proof.Machine.execRoWrWin a d s
  | .roRdExt a => Sys2Proof.Machine.execRoRdExt a s
  | .roWrExt a d => Sys2Proof.Machine.execRoWrExt a d s
  | .linTick => Sys2Proof.Machine.execLinTick s
  | .linRdRom0 a => Sys2Proof.Machine.execLinRdRom0 a s
  | .linRdRomx a => Sys2Proof.Machine.execLinRdRomx a s
  | .linRdRam a => Sys2Proof.Machine.execLinRdRam a s
  | .linRdRamoff a => Sys2Proof.Machine.execLinRdRamoff a s
  | .linWrRamen a d => Sys2Proof.Machine.execLinWrRamen a d s
  | .linWrRomb a d => Sys2Proof.Machine.execLinWrRomb a d s
  | .linWrBanksel a d => Sys2Proof.Machine.execLinWrBanksel a d s
  | .linWrMode a d => Sys2Proof.Machine.execLinWrMode a d s
  | .linWrRam a d => Sys2Proof.Machine.execLinWrRam a d s
  | .linWrRamoff a d => Sys2Proof.Machine.execLinWrRamoff a d s
  | .linRdExt a => Sys2Proof.Machine.execLinRdExt a s
  | .linWrExt a d => Sys2Proof.Machine.execLinWrExt a d s
  | .wcTick => Sys2Proof.Machine.execWcTick s
  | .wcRdRom0 a => Sys2Proof.Machine.execWcRdRom0 a s
  | .wcRdRomx a => Sys2Proof.Machine.execWcRdRomx a s
  | .wcRdRam a => Sys2Proof.Machine.execWcRdRam a s
  | .wcRdRtc a => Sys2Proof.Machine.execWcRdRtc a s
  | .wcRdBadsel a => Sys2Proof.Machine.execWcRdBadsel a s
  | .wcRdOff a => Sys2Proof.Machine.execWcRdOff a s
  | .wcWrEn a d => Sys2Proof.Machine.execWcWrEn a d s
  | .wcWrRomb a d => Sys2Proof.Machine.execWcWrRomb a d s
  | .wcWrSel a d => Sys2Proof.Machine.execWcWrSel a d s
  | .wcWrLatch a d => Sys2Proof.Machine.execWcWrLatch a d s
  | .wcWrRam a d => Sys2Proof.Machine.execWcWrRam a d s
  | .wcWrRtc a d => Sys2Proof.Machine.execWcWrRtc a d s
  | .wcWrBadsel a d => Sys2Proof.Machine.execWcWrBadsel a d s
  | .wcWrOff a d => Sys2Proof.Machine.execWcWrOff a d s
  | .wcRdExt a => Sys2Proof.Machine.execWcRdExt a s
  | .wcWrExt a d => Sys2Proof.Machine.execWcWrExt a d s
  | .wbTick => Sys2Proof.Machine.execWbTick s
  | .wbRdRom0 a => Sys2Proof.Machine.execWbRdRom0 a s
  | .wbRdRomx a => Sys2Proof.Machine.execWbRdRomx a s
  | .wbRdRam a => Sys2Proof.Machine.execWbRdRam a s
  | .wbRdRamoff a => Sys2Proof.Machine.execWbRdRamoff a s
  | .wbWrRamen a d => Sys2Proof.Machine.execWbWrRamen a d s
  | .wbWrRomb0 a d => Sys2Proof.Machine.execWbWrRomb0 a d s
  | .wbWrRomb1 a d => Sys2Proof.Machine.execWbWrRomb1 a d s
  | .wbWrRamb a d => Sys2Proof.Machine.execWbWrRamb a d s
  | .wbWrNop a d => Sys2Proof.Machine.execWbWrNop a d s
  | .wbWrRam a d => Sys2Proof.Machine.execWbWrRam a d s
  | .wbWrRamoff a d => Sys2Proof.Machine.execWbWrRamoff a d s
  | .wbRdExt a => Sys2Proof.Machine.execWbRdExt a s
  | .wbWrExt a d => Sys2Proof.Machine.execWbWrExt a d s

end Sys2Proof.Machine
end

