-- ==== Sys2Proof/Machine/Step.lean ====
section
/-! DEFINITION. One step: the oldest pending request is taken, its word decoded in the current mode, its meaning applied. -/

namespace Sys2Proof.Machine

/-- One operation (10_state.md R22: the block "is driven one operation at a time"). Without a request there is no operation. -/
def step (s : State) : Host.Outcome State Fault Refusal :=
  match s.pending with
  | [] => .refused .noRequest
  | r :: rest =>
    match decode s.mode r.word with
    | .error e => .refused (.notAnOperation e)
    | .ok i => exec i (takeRequest r rest s)

/-- The state with one more request at the head of the queue: the operation word is bits 26:0 of `w`, its other operands are
those that stand at the port (log entries 1 and 22). -/
def State.withFetchWord (s : State) (nbits w : Nat) : State :=
  s.setPending ({ s.port with word := BitVec.ofNat 27 (w % 2 ^ nbits) } :: s.pending)

end Sys2Proof.Machine
end

