-- ==== Sys2Proof/Safety.lean ====
section
/-! DEFINITION. The terms statements are made in: when a state accepts an operation, the invariant of the machine, and when RAM
and store agree. -/

namespace Sys2Proof.Machine

/-- The state accepts the operation: the instance is `Live` (60_exceptions.md R308), the address lies in the region of the
operation's row, and the row's variant and condition hold (30_encoding.md R105, R106). `CON` needs none of this. -/
def State.Accepts (s : State) (i : Instr) : Prop :=
  s.phase = .live ∧ i.wf = true ∧ i.appliesIn s.mode = true

/-- The parameters are in their ranges (00_scope.md R10). -/
def paramsOk (p : Params) : Bool :=
  decide (1 ≤ p.tickFreq) && decide (p.latchInit ≠ 0) && decide (p.resetRomBank.toNat < 32) &&
    Memory.canonicalFrom 0 p.ramInit

/-- A save file given as bytes is a byte array in canonical form. -/
def SaveFile.wf : SaveFile → Bool
  | .absent => true
  | .bytes f => f.wf
  | .leftBehind => true

/-- The image, the save file and the unwritten bytes of a request are byte arrays in canonical form. -/
def Request.wf (r : Request) : Bool :=
  r.con.img.wf && r.con.file0.wf && Memory.canonicalFrom 0 r.con.unwritten

/-- A transfer of the given length moves all of it (45_persistent_store.md R291). -/
def Transfer.covers (t : Transfer) (len : Nat) : Bool :=
  match t with
  | .complete => true
  | .onlyFirst n => decide (len ≤ n)

/-- Both register files are in range (10_state.md R31). -/
def Rtc.inRange (r : Rtc) : Bool := r.live.inRange && r.latched.inRange

/-- A store has the form of the instance: canonical, of the size 45_persistent_store.md R283 gives. -/
def storeFits (c : CartConfig) (st : Memory) : Bool :=
  st.wf && decide (st.size = storeSizeOf c.variant c.ramSize)

/-- The RTC block of a `WideClock` store is in range (45_persistent_store.md R287, 10_state.md R31). A `CON` whose `open` falls
short can leave another one: bytes that were never written, or bytes of the save file that were never read (log entry 45). -/
def State.StoreClockInRange (s : State) : Prop :=
  s.cfg.variant = .wideClock → ∀ st, s.store = some st → (rtcAt st s.cfg.ramSize).inRange = true

/-- The invariant of the machine. -/
structure State.Inv (s : State) : Prop where
  /-- The parameters are in their ranges (00_scope.md R10). -/
  paramsOk : paramsOk s.params = true
  /-- The image is a non-zero multiple of 16 KiB, in canonical form (00_scope.md R12). -/
  imageOk : imageSizeOk s.cfg.img = true
  imageWf : s.cfg.img.wf = true
  /-- The external RAM is canonical and has `ramSize` bytes (10_state.md R37). -/
  ramWf : s.ram.wf = true
  ramSize : s.ram.size = s.cfg.ramSize
  /-- There is a store exactly when the instance is attached, and it fits (10_state.md R38). -/
  storeIff : s.store.isSome = s.cfg.attached
  storeOk : ∀ st, s.store = some st → storeFits s.cfg st = true
  /-- The RTC files are in range (10_state.md R31). -/
  rtcOk : s.rtc.inRange = true
  /-- `bankSelect` only ever holds 0 or 2 (10_state.md R24). -/
  bankSelectOk : s.lin.bankSelect = 0 ∨ s.lin.bankSelect = 2
  /-- The requests carry canonical byte arrays. -/
  portWf : s.port.wf = true
  pendingWf : ∀ r ∈ s.pending, r.wf = true

/-- RAM and store agree on every RAM byte where the mirror policy says so (20_memory.md R88): always on the write-through
variants, and on `LinearBank` while the RAM is disabled. -/
def State.Mirrored (s : State) : Prop :=
  (s.cfg.variant = .linearBank → s.lin.ramEnabled = false) →
    ∀ st, s.store = some st → ∀ k, k < s.cfg.ramSize → st.read k = s.ram.read k

/-- The window of the mode is disabled (20_memory.md R84). -/
def windowDisabled : Mode → Bool
  | .romOnly => true
  | .linearBank en => !en
  | .wideClock win => decide (win = .off)
  | .wideBank en => !en

/-- The operation is a `READ`. -/
def isRead (i : Instr) : Bool := decide (kindField (encode i) = 0)

/-- The time of day and the day as one number of seconds (43_rtc.md R226, R251). -/
def totalSeconds (f : RtcFile) : Nat :=
  f.seconds.toNat + 60 * f.minutes.toNat + 3600 * f.hours.toNat + 86400 * f.day

end Sys2Proof.Machine
end

