-- ==== Sys2Proof/Certificates/Slice0/Obligations.lean ====
section
/-! DEFINITION. The statements for the provers. `State.Accepts s i` says that the instance is live and that the operation is one
of the current mode with its address in its region; it is a hypothesis on the state and the operands alone. Statements quantify
over every state, so over every value of the parameters of 00_scope.md R10. -/

open Sys2Proof Sys2Proof.Machine

/-! ### Encoding and decode -/

/-- Decoding the encoding of a well-formed operation, in a mode the operation is one of, gives the operation with every operand
(30_encoding.md R100, R105; the packing is decision D1). -/
def Obligations.DecodeOfEncodeIsTheOperation : Prop :=
  ∀ (m : Mode) (i : Instr), i.wf = true → i.appliesIn m = true → decode m (encode i) = .ok i

/-- A word that decodes is the encoding of what it decodes to, which is well formed and one of the mode (30_encoding.md R100,
R109; the packing is decision D1). -/
def Obligations.EncodeOfDecodeIsTheWord : Prop :=
  ∀ (m : Mode) (w : OpWord) (i : Instr),
    decode m w = .ok i → encode i = w ∧ i.wf = true ∧ i.appliesIn m = true

/-- The opcode table is total and without overlap, and the decoder follows it: in every mode, the rows that match a word are
exactly one, the row of the decoded operation, where the word is an operation, and none where it is not (30_encoding.md R105,
R106; the packing is decision D1). -/
def Obligations.OpcodeTableIsTotalAndWithoutOverlap : Prop :=
  ∀ (m : Mode) (w : OpWord),
    (opcodeTable.filter (fun r => r.hits m w)).map OpcodeRow.mnemonic =
      match decode m w with
      | .ok i => [i.mnemonic]
      | .error _ => []

/-- `KIND` 5 to 7, a `READ` with a datum, and a `TICK`, `FINALIZE` or `CONSTRUCT` with an address or a datum are no operations:
a step on such a request is refused (30_encoding.md R109, decisions D1, D25). -/
def Obligations.WordsThatAreNoOperationAreRefused : Prop :=
  ∀ (s : State) (r : Request) (rest : List Request), s.pending = r :: rest →
    (5 ≤ (kindField r.word).toNat ∨
      ((kindField r.word).toNat = 0 ∧ datumField r.word ≠ 0) ∨
      (2 ≤ (kindField r.word).toNat ∧ (kindField r.word).toNat ≤ 4 ∧
        (addrField r.word ≠ 0 ∨ datumField r.word ≠ 0))) →
    ∃ e, step s = .refused (.notAnOperation e)

/-- The regions are the address ranges of 30_encoding.md R104: region decode by `A[15:13]`, and the two ROM regions of a `READ`.
The clause on region B of `WideBank`, where `A[12]` tells the high bank register from the low one, is no rule of the document: it is
decision D11, taken from general knowledge (log entry 11, PRESUMED). -/
def Obligations.RegionsAreTheAddressRanges : Prop :=
  ∀ a : Addr,
    (regionOf a = .e ↔ a.toNat ≤ 0x1FFF) ∧
    (regionOf a = .b ↔ 0x2000 ≤ a.toNat ∧ a.toNat ≤ 0x3FFF) ∧
    (regionOf a = .s ↔ 0x4000 ≤ a.toNat ∧ a.toNat ≤ 0x5FFF) ∧
    (regionOf a = .m ↔ 0x6000 ≤ a.toNat ∧ a.toNat ≤ 0x7FFF) ∧
    (regionOf a = .x1 ↔ 0x8000 ≤ a.toNat ∧ a.toNat ≤ 0x9FFF) ∧
    (regionOf a = .w ↔ 0xA000 ≤ a.toNat ∧ a.toNat ≤ 0xBFFF) ∧
    (regionOf a = .x2 ↔ 0xC000 ≤ a.toNat) ∧
    (∀ (en : Bool) (d : Byte), regionOf a = .b →
      decodeWrite (.wideBank en) a d = if a.getLsbD 12 then .wbWrRomb1 a d else .wbWrRomb0 a d) ∧
    (∀ m : Mode, (decodeRead m a ∈ [.roRdRom0 a, .linRdRom0 a, .wcRdRom0 a, .wbRdRom0 a] ↔ a.toNat ≤ 0x3FFF) ∧
      (decodeRead m a ∈ [.roRdRomx a, .linRdRomx a, .wcRdRomx a, .wbRdRomx a] ↔
        0x4000 ≤ a.toNat ∧ a.toNat ≤ 0x7FFF))

/-- Words written out from 30_encoding.md R100 and R106 decode to the operations they stand for. -/
def Obligations.SampleWordsDecode : Prop :=
  decode .romOnly 0x0400000 = .ok (.roRdRomx 0x4000) ∧
  decode (.linearBank false) 0x1200005 = .ok (.linWrRomb 0x2000 0x05) ∧
  decode (.linearBank false) 0x1600100 = .ok (.linWrMode 0x6001 0x00) ∧
  decode (.wideClock .rtc) 0x1A0003A = .ok (.wcWrRtc 0xA000 0x3A) ∧
  decode (.wideClock .off) 0x2000000 = .ok .wcTick ∧
  decode (.wideBank true) 0x13FFFFF = .ok (.wbWrRomb1 0x3FFF 0xFF) ∧
  decode (.wideBank true) 0x1BFFFA5 = .ok (.wbWrRam 0xBFFF 0xA5) ∧
  decode .romOnly 0x3000000 = .ok .fin ∧ decode .romOnly 0x4000000 = .ok .con

/-! ### The step and the phases -/

/-- A step takes the oldest request: when its word decodes in the current mode, the step is the meaning of the decoded
operation at the state with the request at the port and the rest of the queue pending. `withFetchWord` puts a word at the head
of the queue so that the next step runs it. (The queue is the model's own, log entry 1.) -/
def Obligations.StepRunsTheDecodedOperation : Prop :=
  (∀ (s : State) (r : Request) (rest : List Request) (i : Instr),
    s.pending = r :: rest → decode s.mode r.word = .ok i →
      step s = exec i { s with port := r, pending := rest }) ∧
  (∀ (s : State) (nbits w : Nat) (i : Instr),
    decode s.mode (BitVec.ofNat 27 (w % 2 ^ nbits)) = .ok i →
      step (s.withFetchWord nbits w) = exec i { s with port := { s.port with word := BitVec.ofNat 27 (w % 2 ^ nbits) } })

/-- "Faults are precise: the faulting operation has had no effect": where an operation ends in the phase `Faulted`, nothing but
the phase and the result has changed; and a fault is taken, as such a next state: no step ends with the outcome `fault`, whatever
the state (60_exceptions.md R301, R305, decision D25; that a fault is a next state is the model's reading, log entry 15). -/
def Obligations.FaultEntryChangesOnlyPhaseAndResult : Prop :=
  (∀ (i : Instr) (s t : State) (f : Fault), exec i s = .next t → t.phase = .faulted f →
    t = { s with phase := .faulted f, result := .fault f }) ∧
  (∀ (s : State) (f : Fault), step s ≠ .fault f)

/-- `Finalized` and `Faulted` are terminal: every operation but `CON` is refused there (60_exceptions.md R304, 30_encoding.md
R109, decision D25). -/
def Obligations.OnlyConstructLeavesATerminalPhase : Prop :=
  ∀ (i : Instr) (s : State), s.phase ≠ .live → i ≠ .con → exec i s = .refused .notLive

/-! ### Operations common to the variants -/

/-- A read of 0x0000-0x3FFF returns the image byte at the address on every variant, whatever the registers hold, and changes
nothing else (40_dispatch_romonly.md R131). Past the image it takes `F_ROM_INDEX` and returns no byte: that clause is the spec's
own choice, the document says nothing (decision D10, log entry 13, DESIGN CHOICE; the taken fault is log entry 15). -/
def Obligations.FixedBankReadReturnsTheImageByte : Prop :=
  ∀ (s : State) (a : Addr) (i : Instr),
    i ∈ [Instr.roRdRom0 a, .linRdRom0 a, .wcRdRom0 a, .wbRdRom0 a] → s.Accepts i →
      (a.toNat < s.cfg.img.size → exec i s = .next { s with result := .byte (s.cfg.img.read a.toNat) }) ∧
      (s.cfg.img.size ≤ a.toNat →
        exec i s = .next { s with phase := .faulted (.romIndex a.toNat), result := .fault (.romIndex a.toNat) })

/-- Every access outside cartridge space is handed over with its address and datum unchanged, and changes nothing in the block
(40_dispatch_romonly.md R134, R135). -/
def Obligations.OutsideAccessesAreDelegated : Prop :=
  ∀ (s : State) (a : Addr) (d : Byte) (i : Instr),
    (i ∈ [Instr.roRdExt a, .linRdExt a, .wcRdExt a, .wbRdExt a] → s.Accepts i →
      exec i s = .next { s with result := .delegatedRead a }) ∧
    (i ∈ [Instr.roWrExt a d, .linWrExt a d, .wcWrExt a d, .wbWrExt a d] → s.Accepts i →
      exec i s = .next { s with result := .delegatedWrite a d })

/-- `TICK` is a no-op on the variants without a clock (40_dispatch_romonly.md R136). -/
def Obligations.TickWithoutAClockChangesNothing : Prop :=
  ∀ (s : State) (i : Instr), i ∈ [Instr.roTick, .linTick, .wbTick] → s.Accepts i →
    exec i s = .next { s with result := .done }

/-- `FIN` ends the session and saves nothing: the phase becomes `Finalized`, the store and everything else stay as they are
(40_dispatch_romonly.md R133, decision D25). -/
def Obligations.FinalizeSavesNothing : Prop :=
  ∀ s : State, s.phase = .live → exec .fin s = .next { s with phase := .finalized, result := .done }

/-! ### The switchable window -/

/-- A read of 0x4000-0x7FFF returns the image byte at `bank * 16384 + (A - 0x4000)`, with the bank of each variant: 1 on
`RomOnly` (decision D6), the effective bank on `LinearBank`, `romBank` on `WideClock`, the 9-bit bank on `WideBank`
(20_memory.md R76, R137, R140, R168, R197, R268). Where that offset lies past the image it takes the fault `F_ROM_INDEX` and
returns no byte; the offset is neither masked nor wrapped (R81, R82: the fault is the spec's own choice, decision D10, log entry
13). -/
def Obligations.SwitchableReadReturnsTheBankedImageByte : Prop :=
  ∀ (s : State) (a : Addr) (i : Instr) (bank off : Nat),
    (i, bank) ∈
      [(Instr.roRdRomx a, 1),
       (.linRdRomx a, (if s.lin.modeSelect = 0 then s.lin.bankSelect.toNat * 4 else 0) ||| s.lin.romBank.toNat),
       (.wcRdRomx a, s.wc.romBank.toNat),
       (.wbRdRomx a, s.wb.romBankHigh.toNat * 256 + s.wb.romBankLow.toNat)] →
    off = bank * 16384 + (a.toNat - 0x4000) → s.Accepts i →
      (off < s.cfg.img.size → exec i s = .next { s with result := .byte (s.cfg.img.read off) }) ∧
      (s.cfg.img.size ≤ off →
        exec i s = .next { s with phase := .faulted (.romIndex off), result := .fault (.romIndex off) })

/-- The effective bank of `LinearBank` (41_linear_bank.md R167): the formula; in mode 1 or with `bankSelect` 0 it is `romBank`; in
mode 0 with `bankSelect` 2 it is `romBank` with bit 3 forced to 1 and no other bit changed; it is at most 31. -/
def Obligations.EffectiveBankOfLinearBank : Prop :=
  ∀ r : LinearRegs,
    effBank r = ((if r.modeSelect = 0 then r.bankSelect.toNat <<< 2 else 0) ||| r.romBank.toNat) ∧
    (r.bankSelect = 0 ∨ r.bankSelect = 2 →
      effBank r ≤ 31 ∧
      (r.modeSelect = 1 ∨ r.bankSelect = 0 → effBank r = r.romBank.toNat) ∧
      (r.modeSelect = 0 → r.bankSelect = 2 →
        (effBank r).testBit 3 = true ∧ ∀ k, k ≠ 3 → (effBank r).testBit k = r.romBank.toNat.testBit k))

/-! ### RomOnly -/

/-- On `RomOnly` a write to ROM space is ignored without a warning, a window read returns the parameter's sentinel with a
warning, a window write is dropped with a warning (40_dispatch_romonly.md R141 to R143: the spec's own choices, decisions D6, D7,
log entries 8 and 12). -/
def Obligations.RomOnlyHasNoRegisterAndNoWindow : Prop :=
  ∀ (s : State) (a : Addr) (d : Byte),
    (s.Accepts (.roWrRom a d) → exec (.roWrRom a d) s = .next { s with result := .done }) ∧
    (s.Accepts (.roRdWin a) → exec (.roRdWin a) s = .next
      { s with
        log := s.log ++ [.ramDisabledRead a]
        result := .byte (match s.params.disabledReadRomOnly with | .x00 => 0x00 | .xFF => 0xFF) }) ∧
    (s.Accepts (.roWrWin a d) → exec (.roWrWin a d) s = .next
      { s with log := s.log ++ [.ramDisabledWrite a d], result := .done })

/-! ### LinearBank -/

/-- The register writes of `LinearBank`: a datum of exactly 0 gives ROM bank 1 and any other its low five bits; `bankSelect`
takes bit 1 of the datum in place; `modeSelect` takes bit 0 of the address, whatever the datum (41_linear_bank.md R164 to
R166). Nothing else changes. -/
def Obligations.LinearBankRegisterWrites : Prop :=
  ∀ (s : State) (a : Addr) (d : Byte),
    (s.Accepts (.linWrRomb a d) → exec (.linWrRomb a d) s = .next
      { s with
        lin := { s.lin with romBank := BitVec.ofNat 5 ((if d = 0 then 1 else d.toNat) % 32) }
        result := .done }) ∧
    (s.Accepts (.linWrBanksel a d) → exec (.linWrBanksel a d) s = .next
      { s with
        lin := { s.lin with bankSelect := if d.getLsbD 1 then 2 else 0 }
        result := .done }) ∧
    (s.Accepts (.linWrMode a d) → exec (.linWrMode a d) s = .next
      { s with
        lin := { s.lin with modeSelect := BitVec.ofNat 1 (a.toNat % 2) }
        result := .done })

/-- The enable write of `LinearBank`: a low nibble of 0xA enables, any other disables. A rising edge loads the whole RAM from the
store, a falling edge saves the whole RAM to it; without an edge, or without a store, nothing is copied, whatever the transfer
(41_linear_bank.md R163; that copies happen only when attached is decision D9, log entry 26). The premise asks that a copy that is
made moves the whole RAM (45_persistent_store.md R291, decision D32). Nothing else changes. -/
def Obligations.LinearEnableWriteCopiesOnEdges : Prop :=
  ∀ (s : State) (a : Addr) (d : Byte), s.Accepts (.linWrRamen a d) →
    s.store = none ∨ s.lin.ramEnabled = decide (d.toNat % 16 = 10) ∨ s.port.transfer.covers s.cfg.ramSize = true →
    ∃ (ram : Memory) (store : Option Memory),
      exec (.linWrRamen a d) s = .next
        { s with
          lin := { s.lin with ramEnabled := decide (d.toNat % 16 = 10) }
          ram := ram
          store := store
          result := .done } ∧
      ram.size = s.ram.size ∧
      (∀ st, s.store = some st → s.lin.ramEnabled = false → d.toNat % 16 = 10 →
        (∀ k, k < s.cfg.ramSize → ram.read k = st.read k) ∧
        (∀ k, s.cfg.ramSize ≤ k → ram.read k = s.ram.read k) ∧ store = s.store) ∧
      (∀ st, s.store = some st → s.lin.ramEnabled = true → d.toNat % 16 ≠ 10 →
        ram = s.ram ∧ ∃ st', store = some st' ∧ st'.size = st.size ∧
          (∀ k, k < s.cfg.ramSize → st'.read k = s.ram.read k) ∧
          (∀ k, s.cfg.ramSize ≤ k → st'.read k = st.read k)) ∧
      (s.store = none ∨ s.lin.ramEnabled = decide (d.toNat % 16 = 10) → ram = s.ram ∧ store = s.store)

/-- The enabled RAM window of `LinearBank`: a read returns the RAM byte at `A - 0xA000`; a write changes that byte of the RAM and
no other, and does not touch the store; past the declared RAM size both raise `F_RAM_INDEX` and do nothing else
(41_linear_bank.md R170, R171; the taken fault is log entry 15). That the offset has no bank term, whatever `bankSelect` and
`modeSelect` hold, is the spec's own choice (R169, decision D8, log entry 14, DESIGN CHOICE). -/
def Obligations.LinearRamWindow : Prop :=
  ∀ (s : State) (a : Addr) (d : Byte),
    (s.Accepts (.linRdRam a) → a.toNat - 0xA000 < s.cfg.ramSize →
      exec (.linRdRam a) s = .next { s with result := .byte (s.ram.read (a.toNat - 0xA000)) }) ∧
    (s.Accepts (.linWrRam a d) → a.toNat - 0xA000 < s.cfg.ramSize → s.ram.size = s.cfg.ramSize → s.ram.wf = true →
      ∃ ram : Memory, exec (.linWrRam a d) s = .next { s with ram := ram, result := .done } ∧
        ram.size = s.ram.size ∧ ram.read (a.toNat - 0xA000) = d ∧
        ∀ k, k ≠ a.toNat - 0xA000 → ram.read k = s.ram.read k) ∧
    (∀ i, i ∈ [Instr.linRdRam a, .linWrRam a d] → s.Accepts i → s.cfg.ramSize ≤ a.toNat - 0xA000 →
      exec i s = .next
        { s with
          phase := .faulted (.ramIndex (a.toNat - 0xA000))
          result := .fault (.ramIndex (a.toNat - 0xA000)) })

/-! ### The disabled window -/

/-- On `LinearBank` and `WideClock` a read of the disabled window returns 0x00 with a warning and a write is dropped with a
warning, whatever the RAM size and the selector; nothing else changes (41_linear_bank.md R172, R173, 42_wide_clock_bank.md R201,
R204). -/
def Obligations.DisabledWindowOfLinearBankAndWideClock : Prop :=
  ∀ (s : State) (a : Addr) (d : Byte) (i : Instr),
    (i ∈ [Instr.linRdRamoff a, .wcRdOff a] → s.Accepts i →
      exec i s = .next { s with log := s.log ++ [.ramDisabledRead a], result := .byte 0x00 }) ∧
    (i ∈ [Instr.linWrRamoff a d, .wcWrOff a d] → s.Accepts i →
      exec i s = .next { s with log := s.log ++ [.ramDisabledWrite a d], result := .done })

/-- On `WideBank` a read of the disabled window returns the parameter's sentinel with a warning (44_wide_bank.md R271, decision
D7, log entry 8), and a write is dropped with a warning (R272); nothing else changes. -/
def Obligations.DisabledWindowOfWideBank : Prop :=
  ∀ (s : State) (a : Addr) (d : Byte),
    (s.Accepts (.wbRdRamoff a) → exec (.wbRdRamoff a) s = .next
      { s with
        log := s.log ++ [.ramDisabledRead a]
        result := .byte (match s.params.disabledReadWideBank with | .x00 => 0x00 | .xFF => 0xFF) }) ∧
    (s.Accepts (.wbWrRamoff a d) → exec (.wbWrRamoff a d) s = .next
      { s with log := s.log ++ [.ramDisabledWrite a d], result := .done })

/-! ### WideClock: banks and RAM window -/

/-- The register writes of `WideClock`: the enable flag is the low-nibble test, with no store access; a datum of exactly 0 gives
ROM bank 1 and any other its low seven bits; the selector takes the datum verbatim (42_wide_clock_bank.md R193 to R195). Nothing
else changes. -/
def Obligations.WideClockBankRegisterWrites : Prop :=
  ∀ (s : State) (a : Addr) (d : Byte),
    (s.Accepts (.wcWrEn a d) → exec (.wcWrEn a d) s = .next
      { s with
        wc := { s.wc with ramAndTimerEnabled := decide (d.toNat % 16 = 10) }
        result := .done }) ∧
    (s.Accepts (.wcWrRomb a d) → exec (.wcWrRomb a d) s = .next
      { s with
        wc := { s.wc with romBank := BitVec.ofNat 7 ((if d = 0 then 1 else d.toNat) % 128) }
        result := .done }) ∧
    (s.Accepts (.wcWrSel a d) → exec (.wcWrSel a d) s = .next
      { s with wc := { s.wc with ramBankOrRtcRegister := d }, result := .done })

/-- The window of `WideClock` decodes by the enable flag first, then by the selector: up to 0x03 RAM, 0x08 to 0x0C an RTC
register, anything else unmapped (42_wide_clock_bank.md R198). -/
def Obligations.WideClockWindowDecode : Prop :=
  ∀ (s : State) (a : Addr) (d : Byte), s.cfg.variant = .wideClock → regionOf a = .w →
    (s.wc.ramAndTimerEnabled = false →
      decodeRead s.mode a = .wcRdOff a ∧ decodeWrite s.mode a d = .wcWrOff a d) ∧
    (s.wc.ramAndTimerEnabled = true → s.wc.ramBankOrRtcRegister.toNat ≤ 0x03 →
      decodeRead s.mode a = .wcRdRam a ∧ decodeWrite s.mode a d = .wcWrRam a d) ∧
    (s.wc.ramAndTimerEnabled = true → 0x08 ≤ s.wc.ramBankOrRtcRegister.toNat →
      s.wc.ramBankOrRtcRegister.toNat ≤ 0x0C →
      decodeRead s.mode a = .wcRdRtc a ∧ decodeWrite s.mode a d = .wcWrRtc a d) ∧
    (s.wc.ramAndTimerEnabled = true →
      (0x04 ≤ s.wc.ramBankOrRtcRegister.toNat ∧ s.wc.ramBankOrRtcRegister.toNat ≤ 0x07) ∨
        0x0D ≤ s.wc.ramBankOrRtcRegister.toNat →
      decodeRead s.mode a = .wcRdBadsel a ∧ decodeWrite s.mode a d = .wcWrBadsel a d)

/-- The RAM window of `WideClock` with a RAM selector: a read returns the RAM byte at `selector * 8192 + (A - 0xA000)`; a write
changes that byte of the RAM and, when attached, that byte of the store, and no other byte of either; past the declared RAM size
both raise `F_RAM_INDEX` and do nothing else (42_wide_clock_bank.md R199, R202; the taken fault is log entry 15). The premise asks
that a byte that goes to the store gets there (45_persistent_store.md R291, decision D32). -/
def Obligations.WideClockRamWindowWritesThrough : Prop :=
  ∀ (s : State) (a : Addr) (d : Byte) (off : Nat),
    off = s.wc.ramBankOrRtcRegister.toNat * 8192 + (a.toNat - 0xA000) →
    (s.Accepts (.wcRdRam a) → off < s.cfg.ramSize →
      exec (.wcRdRam a) s = .next { s with result := .byte (s.ram.read off) }) ∧
    (s.Accepts (.wcWrRam a d) → off < s.cfg.ramSize → s.Inv →
      s.store = none ∨ s.port.transfer.covers 1 = true →
      ∃ (ram : Memory) (store : Option Memory),
        exec (.wcWrRam a d) s = .next { s with ram := ram, store := store, result := .done } ∧
        ram.size = s.ram.size ∧ ram.read off = d ∧ (∀ k, k ≠ off → ram.read k = s.ram.read k) ∧
        (s.store = none → store = none) ∧
        (∀ st, s.store = some st → ∃ st', store = some st' ∧ st'.size = st.size ∧ st'.read off = d ∧
          ∀ k, k ≠ off → st'.read k = st.read k)) ∧
    (∀ i, i ∈ [Instr.wcRdRam a, .wcWrRam a d] → s.Accepts i → s.cfg.ramSize ≤ off →
      exec i s = .next { s with phase := .faulted (.ramIndex off), result := .fault (.ramIndex off) })

/-- With an unmapped selector a read returns 0x00 with a warning (42_wide_clock_bank.md R200) and a write is dropped with a
warning (R203: the spec's own choice, decision D12, log entry 27); nothing else changes. -/
def Obligations.UnmappedSelectorReadsZeroAndDropsWrites : Prop :=
  ∀ (s : State) (a : Addr) (d : Byte),
    (s.Accepts (.wcRdBadsel a) → exec (.wcRdBadsel a) s = .next
      { s with log := s.log ++ [.badSelectorRead s.wc.ramBankOrRtcRegister], result := .byte 0x00 }) ∧
    (s.Accepts (.wcWrBadsel a d) → exec (.wcWrBadsel a d) s = .next
      { s with log := s.log ++ [.badSelectorWrite s.wc.ramBankOrRtcRegister d], result := .done })

/-! ### The RTC -/

/-- The latch write copies `live` into `latched` exactly when the old latch value is 0 and the datum is 1, and stores the datum
(43_rtc.md R230). That it works with the window disabled, and that nothing is persisted and the store stays as it was, is the
spec's own choice: the document states none of it (R231, decision D28, log entry 40, DESIGN CHOICE). Nothing else changes. -/
def Obligations.LatchWriteCopiesOnTheZeroToOneEdge : Prop :=
  ∀ (s : State) (a : Addr) (d : Byte), s.Accepts (.wcWrLatch a d) →
    exec (.wcWrLatch a d) s = .next
      { s with
        wc := { s.wc with latch := d }
        rtc := { s.rtc with latched := if s.wc.latch = 0 ∧ d = 1 then s.rtc.live else s.rtc.latched }
        result := .done }

/-- An RTC read returns the latched register the selector names, 0x08 seconds to 0x0C day-high, at every address of the window,
and changes nothing else (43_rtc.md R232, 10_state.md R28). -/
def Obligations.RtcReadReturnsTheLatchedRegister : Prop :=
  ∀ (s : State) (a : Addr), s.Accepts (.wcRdRtc a) →
    exec (.wcRdRtc a) s = .next
      { s with
        result := .byte
          ([s.rtc.latched.seconds, s.rtc.latched.minutes, s.rtc.latched.hours, s.rtc.latched.dayLow,
            s.rtc.latched.dayHigh].getD (s.wc.ramBankOrRtcRegister.toNat - 0x08) 0) }

/-- An accepted RTC write (seconds and minutes below 60, hours below 24, the day registers any datum) puts the datum into that
register of both files, sets `lastSave` to `now` and, when attached, writes the 22 bytes of the block behind the RAM; nothing else
changes (43_rtc.md R233, 45_persistent_store.md R289; bits 5:1 of day-high are decision D14, log entry 29, the refreshed timestamp
and layout R282, R289). The premise asks that a block that goes to the store gets there whole (R291, decision D32). -/
def Obligations.AcceptedRtcWriteSetsBothFilesAndPersists : Prop :=
  ∀ (s : State) (a : Addr) (d : Byte) (n : Nat), s.Accepts (.wcWrRtc a d) → s.Inv →
    s.store = none ∨ s.port.transfer.covers 22 = true →
    n = s.wc.ramBankOrRtcRegister.toNat - 0x08 →
    (n ≤ 1 → d.toNat < 60) → (n = 2 → d.toNat < 24) →
      ∃ (live latched : RtcFile) (store : Option Memory),
        exec (.wcWrRtc a d) s = .next
          { s with
            rtc := { live := live, latched := latched, cycleCounter := s.rtc.cycleCounter, lastSave := s.port.now }
            store := store
            result := .done } ∧
        live.bytes = s.rtc.live.bytes.set n d ∧ latched.bytes = s.rtc.latched.bytes.set n d ∧
        (s.store = none → store = none) ∧
        (∀ st, s.store = some st → ∃ st', store = some st' ∧ st'.size = st.size ∧
          (∀ k, k < s.cfg.ramSize → st'.read k = st.read k) ∧
          rtcAt st' s.cfg.ramSize =
            { live := live, latched := latched, cycleCounter := s.rtc.cycleCounter, lastSave := s.port.now })

/-- A rejected RTC write changes nothing at all: the register keeps its value, nothing is persisted, no warning is logged
(43_rtc.md R233; that the timestamp is not refreshed is decision D13, log entry 28). -/
def Obligations.RejectedRtcWriteChangesNothing : Prop :=
  ∀ (s : State) (a : Addr) (d : Byte), s.Accepts (.wcWrRtc a d) →
    (s.wc.ramBankOrRtcRegister.toNat ≤ 0x09 ∧ 60 ≤ d.toNat ∨
      s.wc.ramBankOrRtcRegister.toNat = 0x0A ∧ 24 ≤ d.toNat) →
    exec (.wcWrRtc a d) s = .next { s with result := .done }

/-- A tick of a halted clock adds the cycles to the counter and does nothing else: no advance, no reduction, no persist (43_rtc.md
R241). The premise keeps the sum below 2^32; that it wraps there is decision D16 and stated with the running tick. -/
def Obligations.HaltedTickOnlyAccumulates : Prop :=
  ∀ s : State, s.Accepts .wcTick → s.rtc.live.dayHigh.getLsbD 6 = true →
    s.rtc.cycleCounter.toNat + s.port.cyclesElapsed.toNat < 2 ^ 32 →
    ∃ counter : BitVec 32,
      exec .wcTick s = .next { s with rtc := { s.rtc with cycleCounter := counter }, result := .done } ∧
      counter.toNat = s.rtc.cycleCounter.toNat + s.port.cyclesElapsed.toNat

/-- A tick of `WideClock`. The counter takes the cycles modulo 2^32 (decision D16). If the clock is halted or the counter is below
`TICK_FREQ`, that is all, whatever the transfer. Otherwise, where a block that goes to the store gets there whole
(45_persistent_store.md R291, decision D32), exactly one second is advanced, the counter is reduced modulo `TICK_FREQ`, `lastSave`
becomes `now` and, when attached, the block goes to the store with the counter before or after the reduction as the parameter says
(43_rtc.md R240, R242, 45_persistent_store.md R289; decisions D15 to D18, log entries 9, 30, 31, 32). Nothing else changes. -/
def Obligations.TickEmitsAtMostOneSecond : Prop :=
  ∀ (s : State) (sum : Nat), s.Accepts .wcTick → s.Inv →
    sum = (s.rtc.cycleCounter.toNat + s.port.cyclesElapsed.toNat) % 2 ^ 32 →
    ((s.rtc.live.dayHigh.getLsbD 6 = true ∨ sum < s.params.tickFreq) →
      exec .wcTick s = .next
        { s with rtc := { s.rtc with cycleCounter := BitVec.ofNat 32 sum }, result := .done }) ∧
    (s.rtc.live.dayHigh.getLsbD 6 = false → s.params.tickFreq ≤ sum →
      s.store = none ∨ s.port.transfer.covers 22 = true →
      ∃ store : Option Memory,
        exec .wcTick s = .next
          { s with
            rtc :=
              { live := advanceSecond s.rtc.live
                latched := s.rtc.latched
                cycleCounter := BitVec.ofNat 32 (sum % s.params.tickFreq)
                lastSave := s.port.now }
            store := store
            result := .done } ∧
        (s.store = none → store = none) ∧
        (∀ st, s.store = some st → ∃ st', store = some st' ∧ st'.size = st.size ∧
          (∀ k, k < s.cfg.ramSize → st'.read k = st.read k) ∧
          rtcAt st' s.cfg.ramSize =
            { live := advanceSecond s.rtc.live
              latched := s.rtc.latched
              cycleCounter :=
                BitVec.ofNat 32 (if s.params.persistBeforeReduce then sum else sum % s.params.tickFreq)
              lastSave := s.port.now }))

/-- One day forward: the 9-bit day counter wraps modulo 512; the day-carry is set when it wraps and otherwise keeps its value, so
a further wrap leaves it set; halt and bits 5:1 of day-high, and the time of day, are never changed (43_rtc.md R221; bits 5:1
are decision D14, log entry 29). -/
def Obligations.DayCounterWrapsAndTheCarrySticks : Prop :=
  ∀ f : RtcFile,
    (advanceDay f).day = (f.day + 1) % 512 ∧
    (advanceDay f).dayCarry = (f.dayCarry || decide (f.day = 511)) ∧
    (∀ k, 1 ≤ k → k ≤ 6 → (advanceDay f).dayHigh.getLsbD k = f.dayHigh.getLsbD k) ∧
    (advanceDay f).seconds = f.seconds ∧ (advanceDay f).minutes = f.minutes ∧ (advanceDay f).hours = f.hours

/-- The carry chain: seconds and minutes wrap at 60, hours at 24, and each wrap is one step of the next stage; below the wrap
only the one register moves (43_rtc.md R222 to R224, with their preconditions on the register). -/
def Obligations.SecondsMinutesAndHoursCascade : Prop :=
  ∀ f : RtcFile,
    (f.seconds.toNat < 59 → advanceSecond f = { f with seconds := BitVec.ofNat 8 (f.seconds.toNat + 1) }) ∧
    (f.seconds.toNat = 59 → advanceSecond f = advanceMinute { f with seconds := 0 }) ∧
    (f.minutes.toNat < 59 → advanceMinute f = { f with minutes := BitVec.ofNat 8 (f.minutes.toNat + 1) }) ∧
    (f.minutes.toNat = 59 → advanceMinute f = advanceHour { f with minutes := 0 }) ∧
    (f.hours.toNat < 23 → advanceHour f = { f with hours := BitVec.ofNat 8 (f.hours.toNat + 1) }) ∧
    (f.hours.toNat = 23 → advanceHour f = advanceDay { f with hours := 0 })

/-- On files in range one second forward adds 1 to the total number of seconds modulo 512 days, keeps the ranges, and sets the
day-carry exactly when the total wraps (43_rtc.md R226, decisions D16, D21). -/
def Obligations.AdvanceSecondAddsOneSecond : Prop :=
  ∀ f : RtcFile, f.inRange = true →
    totalSeconds (advanceSecond f) = (totalSeconds f + 1) % (512 * 86400) ∧
    (advanceSecond f).inRange = true ∧
    (advanceSecond f).dayCarry = (f.dayCarry || decide (totalSeconds f + 1 = 512 * 86400))

/-- The fast-forward over `e` seconds, days first, then hours, minutes and seconds, gives the same file as `e` single seconds
one after the other (43_rtc.md R251, derived there from R221 to R224 and R250). -/
def Obligations.FastForwardEqualsSecondBySecond : Prop :=
  ∀ (e : Nat) (f : RtcFile), f.inRange = true → advanceElapsed e f = advanceSecond^[e] f

/-! ### WideBank -/

/-- The register writes of `WideBank` (44_wide_bank.md R263 to R265, R267): the enable flag by the low nibble, with no store access;
`romBankLow` takes the datum, 0 included; `romBankHigh` takes bit 0; 0x6000-0x7FFF is ignored. Nothing else changes. The address
ranges, the enable test and the bit are decision D11, from general knowledge (log entry 11). -/
def Obligations.WideBankRegisterWrites : Prop :=
  ∀ (s : State) (a : Addr) (d : Byte),
    (s.Accepts (.wbWrRamen a d) → exec (.wbWrRamen a d) s = .next
      { s with wb := { s.wb with ramEnabled := decide (d.toNat % 16 = 10) }, result := .done }) ∧
    (s.Accepts (.wbWrRomb0 a d) → exec (.wbWrRomb0 a d) s = .next
      { s with wb := { s.wb with romBankLow := d }, result := .done }) ∧
    (s.Accepts (.wbWrRomb1 a d) → exec (.wbWrRomb1 a d) s = .next
      { s with wb := { s.wb with romBankHigh := BitVec.ofNat 1 (d.toNat % 2) }, result := .done }) ∧
    (s.Accepts (.wbWrNop a d) → exec (.wbWrNop a d) s = .next { s with result := .done })

/-- A RAM-bank write of `WideBank` takes the low two bits of a datum up to 0x0F; a larger datum leaves the bank as it was,
without a warning. Nothing else changes (44_wide_bank.md R266). -/
def Obligations.WideBankRamBankWrite : Prop :=
  ∀ (s : State) (a : Addr) (d : Byte), s.Accepts (.wbWrRamb a d) →
    (d.toNat ≤ 0x0F → exec (.wbWrRamb a d) s = .next
      { s with wb := { s.wb with ramBank := BitVec.ofNat 2 (d.toNat % 4) }, result := .done }) ∧
    (0x0F < d.toNat → exec (.wbWrRamb a d) s = .next { s with result := .done })

/-- The enabled RAM window of `WideBank`: a read returns the RAM byte at `ramBank * 8192 + (A - 0xA000)`; a write changes that byte
of the RAM and, when attached, that byte of the store, and no other byte of either; past the declared RAM size both raise
`F_RAM_INDEX` and do nothing else (44_wide_bank.md R269, R270; the formula is decision D11, log entry 11; the taken fault is log
entry 15). The premise asks that a byte that goes to the store gets there (45_persistent_store.md R291, decision D32). -/
def Obligations.WideBankRamWindowWritesThrough : Prop :=
  ∀ (s : State) (a : Addr) (d : Byte) (off : Nat), off = s.wb.ramBank.toNat * 8192 + (a.toNat - 0xA000) →
    (s.Accepts (.wbRdRam a) → off < s.cfg.ramSize →
      exec (.wbRdRam a) s = .next { s with result := .byte (s.ram.read off) }) ∧
    (s.Accepts (.wbWrRam a d) → off < s.cfg.ramSize → s.Inv →
      s.store = none ∨ s.port.transfer.covers 1 = true →
      ∃ (ram : Memory) (store : Option Memory),
        exec (.wbWrRam a d) s = .next { s with ram := ram, store := store, result := .done } ∧
        ram.size = s.ram.size ∧ ram.read off = d ∧ (∀ k, k ≠ off → ram.read k = s.ram.read k) ∧
        (s.store = none → store = none) ∧
        (∀ st, s.store = some st → ∃ st', store = some st' ∧ st'.size = st.size ∧ st'.read off = d ∧
          ∀ k, k ≠ off → st'.read k = st.read k)) ∧
    (∀ i, i ∈ [Instr.wbRdRam a, .wbWrRam a d] → s.Accepts i → s.cfg.ramSize ≤ off →
      exec i s = .next { s with phase := .faulted (.ramIndex off), result := .fault (.ramIndex off) })

/-! ### Construction and the store -/

/-- `CON` with a type code the table does not support raises `F_UNSUPPORTED_TYPE` with the code, before any other test, whatever
the phase and the other operands (30_encoding.md R110). That nothing else of the state changes is the fault entry of
60_exceptions.md R305 (log entry 15). That it is so on a `Live` instance too is the model's own reading: the spec neither gives nor
forbids a `CON` there (log entry 16, DEDUCED). -/
def Obligations.UnsupportedTypeIsFatal : Prop :=
  ∀ s : State, (∀ e ∈ s.params.typeTable, e.1 ≠ s.port.con.cartridgeType) →
    exec .con s = .next
      { s with
        phase := .faulted (.unsupportedType s.port.con.cartridgeType)
        result := .fault (.unsupportedType s.port.con.cartridgeType) }

/-- `CON` that loads no save file: a live instance of the decoded type with every register at its reset value (10_state.md R42,
decisions D3 to D5, D16, D20), the RAM at `RAM_INIT`, an empty log, and, when attached, a store of the size of
45_persistent_store.md R283 that holds the RAM and, on `WideClock`, the reset RTC block with `lastSave = now` (R284, R288). The
elapsed time of the fast-forward is 0. No file is loaded where none is found, and where the instance is not attached (no battery,
or `RomOnly`): a file that is found there is ignored, and there is no store (40_dispatch_romonly.md R144, 45_persistent_store.md
R281). The premise asks that the transfers of an attached instance are whole (R291, decision D32). -/
def Obligations.ConstructWithoutASaveFile : Prop :=
  ∀ (s : State) (t : CartType) (found : Option Memory) (attached : Bool), s.Inv →
    typeOf s.params.typeTable s.port.con.cartridgeType = some t →
    s.port.con.img.size % 16384 = 0 → 16384 ≤ s.port.con.img.size →
    found = (match s.port.con.file0 with | .absent => none | .bytes f => some f | .leftBehind => s.store) →
    attached = (t.hasBattery && decide (t.variant ≠ .romOnly)) → attached = false ∨ found = none →
    (attached = true →
      s.port.con.openTransfer.covers (s.port.con.ramSizeBytes + (if t.variant = .wideClock then 22 else 0)) = true ∧
        (t.variant = .wideClock → t.hasTimer = true → s.port.transfer.covers 22 = true)) →
      ∃ (ram : Memory) (store : Option Memory),
        exec .con s = .next
          { params := s.params
            cfg :=
              { variant := t.variant
                img := s.port.con.img
                ramSize := s.port.con.ramSizeBytes
                hasRam := t.hasRam
                hasBattery := t.hasBattery
                hasTimer := t.hasTimer
                file0 := found }
            lin := { ramEnabled := false, romBank := s.params.resetRomBank.setWidth 5, bankSelect := 0, modeSelect := 0 }
            wc :=
              { ramAndTimerEnabled := false
                romBank := s.params.resetRomBank.setWidth 7
                ramBankOrRtcRegister := 0
                latch := s.params.latchInit }
            wb := { ramEnabled := false, romBankLow := s.params.resetRomBank, romBankHigh := 0, ramBank := 0 }
            rtc := { live := .zero, latched := .zero, cycleCounter := 0, lastSave := s.port.now }
            ram := ram
            store := store
            phase := .live
            log := []
            result := .constructed
            port := s.port
            pending := s.pending } ∧
        ram.size = s.port.con.ramSizeBytes ∧
        (∀ k, k < s.port.con.ramSizeBytes → ram.read k = Memory.lookup s.params.ramInit k) ∧
        (attached = false → store = none) ∧
        (attached = true →
          ∃ st, store = some st ∧
            st.size = s.port.con.ramSizeBytes + (if t.variant = .wideClock then 22 else 0) ∧
            (∀ k, k < s.port.con.ramSizeBytes → st.read k = ram.read k) ∧
            (t.variant = .wideClock → rtcAt st s.port.con.ramSizeBytes =
              { live := .zero, latched := .zero, cycleCounter := 0, lastSave := s.port.now }))

/-- `CON` of a `WideClock` with battery that finds a save file meeting the preconditions: RAM, both files and the counter are
loaded from it; with a timer and unless halted, `live` is fast-forwarded by `now - lastSave` seconds; with a timer the timestamp is
refreshed and the block persisted, halted or not; without a timer the block stays as loaded and the store is the file. The bank
registers are at their reset values all the same (10_state.md R42), the configuration is the decoded type's with the operands, the
log is empty (40_dispatch_romonly.md R132, 43_rtc.md R250, R253, 45_persistent_store.md R284, R287; decisions D3, D4, D19 to D24).
The file is one given as bytes or the store left behind (log entry 17). The premise asks that the load, and with a timer the
persist, are whole (R291, decision D32). -/
def Obligations.ConstructLoadsTheFileAndFastForwards : Prop :=
  ∀ (s : State) (t : CartType) (f : Memory) (saved : Rtc) (live : RtcFile), s.Inv →
    typeOf s.params.typeTable s.port.con.cartridgeType = some t → t.variant = .wideClock → t.hasBattery = true →
    s.port.con.img.size % 16384 = 0 → 16384 ≤ s.port.con.img.size →
    s.port.con.file0 = .bytes f ∨ s.port.con.file0 = .leftBehind ∧ s.store = some f →
    f.size = s.port.con.ramSizeBytes + 22 → s.port.con.openTransfer.covers f.size = true →
    (t.hasTimer = true → s.port.transfer.covers 22 = true) →
    saved = rtcAt f s.port.con.ramSizeBytes → saved.inRange = true → saved.lastSave.toNat ≤ s.port.now.toNat →
    live = (if t.hasTimer = true ∧ saved.live.dayHigh.getLsbD 6 = false then
      advanceElapsed (s.port.now.toNat - saved.lastSave.toNat) saved.live else saved.live) →
      ∃ (rtc : Rtc) (ram st : Memory),
        exec .con s = .next
          { params := s.params
            cfg :=
              { variant := t.variant
                img := s.port.con.img
                ramSize := s.port.con.ramSizeBytes
                hasRam := t.hasRam
                hasBattery := t.hasBattery
                hasTimer := t.hasTimer
                file0 := some f }
            lin := { ramEnabled := false, romBank := s.params.resetRomBank.setWidth 5, bankSelect := 0, modeSelect := 0 }
            wc :=
              { ramAndTimerEnabled := false
                romBank := s.params.resetRomBank.setWidth 7
                ramBankOrRtcRegister := 0
                latch := s.params.latchInit }
            wb := { ramEnabled := false, romBankLow := s.params.resetRomBank, romBankHigh := 0, ramBank := 0 }
            rtc := rtc
            ram := ram
            store := some st
            phase := .live
            log := []
            result := .constructed
            port := s.port
            pending := s.pending } ∧
        rtc =
          { live := live
            latched := saved.latched
            cycleCounter := saved.cycleCounter
            lastSave := if t.hasTimer then s.port.now else saved.lastSave } ∧
        ram.size = s.port.con.ramSizeBytes ∧ (∀ k, k < s.port.con.ramSizeBytes → ram.read k = f.read k) ∧
        st.size = f.size ∧ (∀ k, k < s.port.con.ramSizeBytes → st.read k = f.read k) ∧
        rtcAt st s.port.con.ramSizeBytes = rtc ∧
        (t.hasTimer = false → st = f)

/-- `CON` of a `LinearBank` or `WideBank` with battery that finds a save file of the right size: RAM and store are the file, every
register is at its reset value (10_state.md R42), the configuration is the decoded type's with the operands, the log is empty
(45_persistent_store.md R283, R284, R287, 40_dispatch_romonly.md R132; decisions D3, D9, D19, D20, D23). The file is one given as
bytes or the store left behind (log entry 17). The premise asks that the load is whole (R291, decision D32, log entry 19); no other
transfer is made, so the request's `transfer` plays no part. -/
def Obligations.ConstructLoadsTheRamOfAPlainFile : Prop :=
  ∀ (s : State) (t : CartType) (f : Memory), s.Inv →
    typeOf s.params.typeTable s.port.con.cartridgeType = some t →
    t.variant = .linearBank ∨ t.variant = .wideBank → t.hasBattery = true →
    s.port.con.img.size % 16384 = 0 → 16384 ≤ s.port.con.img.size →
    s.port.con.file0 = .bytes f ∨ s.port.con.file0 = .leftBehind ∧ s.store = some f →
    f.size = s.port.con.ramSizeBytes → s.port.con.openTransfer.covers f.size = true →
      exec .con s = .next
          { params := s.params
            cfg :=
              { variant := t.variant
                img := s.port.con.img
                ramSize := s.port.con.ramSizeBytes
                hasRam := t.hasRam
                hasBattery := t.hasBattery
                hasTimer := t.hasTimer
                file0 := some f }
            lin := { ramEnabled := false, romBank := s.params.resetRomBank.setWidth 5, bankSelect := 0, modeSelect := 0 }
            wc :=
              { ramAndTimerEnabled := false
                romBank := s.params.resetRomBank.setWidth 7
                ramBankOrRtcRegister := 0
                latch := s.params.latchInit }
            wb := { ramEnabled := false, romBankLow := s.params.resetRomBank, romBankHigh := 0, ramBank := 0 }
            rtc := { live := .zero, latched := .zero, cycleCounter := 0, lastSave := s.port.now }
            ram := f
            store := some f
            phase := .live
            log := []
            result := .constructed
            port := s.port
            pending := s.pending }

/-- `CON` refuses what breaks a precondition of 00_scope.md R12 (decisions D21, D23, D24, D35, log entry 18): an image that is no
non-zero multiple of 16 KiB; on an attached instance, a save file of another size, and on `WideClock` one whose loaded RTC bytes are
out of range or whose loaded timestamp is later than `now`. The save file is one given as bytes or the store left behind (log entry
17). `g` is what is loaded: the file's bytes as far as the load gets, behind them those of the snapshot (45_persistent_store.md
R291, log entry 19); with a whole load it is the file. -/
def Obligations.ConstructRefusesBrokenPreconditions : Prop :=
  ∀ (s : State) (t : CartType), typeOf s.params.typeTable s.port.con.cartridgeType = some t →
    (s.port.con.img.size % 16384 ≠ 0 ∨ s.port.con.img.size < 16384 → exec .con s = .refused .imageSize) ∧
    (s.port.con.img.size % 16384 = 0 → 16384 ≤ s.port.con.img.size → t.hasBattery = true → t.variant ≠ .romOnly →
      ∀ f, s.port.con.file0 = .bytes f ∨ s.port.con.file0 = .leftBehind ∧ s.store = some f →
        (f.size ≠ s.port.con.ramSizeBytes + (if t.variant = .wideClock then 22 else 0) →
          exec .con s = .refused .saveFileSize) ∧
        (∀ g : Memory, s.Inv → f.size = s.port.con.ramSizeBytes + 22 → t.variant = .wideClock →
          (∀ k, k < f.size → g.read k =
            if k < s.port.con.openTransfer.moved f.size then f.read k
            else if k < s.port.con.ramSizeBytes then Memory.lookup s.params.ramInit k
            else (rtcBlock (Rtc.reset s.port.now)).getD (k - s.port.con.ramSizeBytes) 0) →
          ((rtcAt g s.port.con.ramSizeBytes).inRange = false → exec .con s = .refused .saveFileRtcRange) ∧
          ((rtcAt g s.port.con.ramSizeBytes).inRange = true →
            s.port.now.toNat < (rtcAt g s.port.con.ramSizeBytes).lastSave.toNat →
              exec .con s = .refused .clockBeforeSave)))

/-- The reset state is what `CON` gives for the reset request, from any state with the default parameters (70_reset_and_hazards.md
R330; the cartridge and the parameter values are the model's choice, log entries 2 to 9). -/
def Obligations.ResetIsAConstruction : Prop :=
  ∀ s : State, s.params = Config.defaultParams → s.port = State.resetRequest → s.pending = [] →
    exec .con s = .next State.reset

/-- The save file `leftBehind` is the store of the instance before: `CON` with it does what `CON` does with that store given as
bytes, or with no file where there is no store, but for the operand itself at the port: the same next state, or the same refusal
(10_state.md R38, 45_persistent_store.md R286; log entry 17). -/
def Obligations.LeftBehindFileIsThePreviousStore : Prop :=
  ∀ (s : State) (given : SaveFile), s.port.con.file0 = .leftBehind →
    given = (match s.store with | some st => .bytes st | none => .absent) →
    (∀ c, exec .con { s with port := { s.port with con := { s.port.con with file0 := given } } } = .next c →
      exec .con s = .next { c with port := s.port }) ∧
    (∀ r, exec .con { s with port := { s.port with con := { s.port.con with file0 := given } } } = .refused r →
      exec .con s = .refused r)

/-- The layout of the RTC block, byte by byte: `live` seconds, minutes, hours, day-low, day-high at offsets 0 to 4, `latched` in the
same order at 5 to 9, the counter at 10 to 13 and the timestamp at 14 to 21, least significant byte first (45_persistent_store.md
R282, 20_memory.md R85; the order inside the two files is decision D22, log entry 36). Written behind the RAM it stands there so and
no other byte changes; it reads back as the same RTC state; and what is read from any 22 bytes is written as those bytes (R287). -/
def Obligations.RtcBlockReadsBackAsWritten : Prop :=
  (∀ r : Rtc,
    (rtcBlock r).length = 22 ∧
    (rtcBlock r).take 10 =
      [r.live.seconds, r.live.minutes, r.live.hours, r.live.dayLow, r.live.dayHigh,
       r.latched.seconds, r.latched.minutes, r.latched.hours, r.latched.dayLow, r.latched.dayHigh] ∧
    (∀ j, j < 4 → (rtcBlock r).getD (10 + j) 0 = r.cycleCounter.extractLsb' (8 * j) 8) ∧
    (∀ j, j < 8 → (rtcBlock r).getD (14 + j) 0 = r.lastSave.extractLsb' (8 * j) 8)) ∧
  (∀ (m : Memory) (off : Nat) (r : Rtc), m.wf = true → off + 22 ≤ m.size →
    rtcAt (m.writeList off (rtcBlock r)) off = r ∧
    (∀ k, k < 22 → (m.writeList off (rtcBlock r)).read (off + k) = (rtcBlock r).getD k 0) ∧
    ∀ k, k < off ∨ off + 22 ≤ k → (m.writeList off (rtcBlock r)).read k = m.read k) ∧
  (∀ (m : Memory) (off : Nat), rtcBlock (rtcAt m off) = m.readList off 22)

/-! ### Invariants and whole-machine rules -/

/-- The reset state meets the invariant, its RAM and store agree, and the RTC block of its store is in range. -/
def Obligations.ResetMeetsTheInvariant : Prop := State.reset.Inv ∧ State.reset.Mirrored ∧ State.reset.StoreClockInRange

/-- Every step keeps the invariant, whatever the request: parameters in range, image a non-zero multiple of 16 KiB, RAM and store
canonical and of their sizes, a store exactly when attached, RTC files in range, `bankSelect` 0 or 2 (10_state.md R24, R31, R37,
R38, 00_scope.md R12, 45_persistent_store.md R283). The RTC block of the store stays in range too, in every step but a `CON` whose
load or creation of the store falls short (45_persistent_store.md R287, R291; log entry 45). -/
def Obligations.StepKeepsTheInvariant : Prop :=
  ∀ s t : State, s.Inv → step s = .next t →
    t.Inv ∧
    (s.StoreClockInRange →
      (∀ r, s.pending.head? = some r → r.word = encode .con → r.con.openTransfer = .complete) → t.StoreClockInRange)

/-- Every step whose transfers are complete, that of `open` included, keeps RAM and store in agreement: at every moment on the
write-through variants, and on `LinearBank` whenever the RAM is disabled (20_memory.md R80, R88, decision D32 for the premise). -/
def Obligations.StepKeepsRamAndStoreInAgreement : Prop :=
  ∀ s t : State, s.Inv → s.Mirrored →
    (∀ r, s.pending.head? = some r → r.transfer = .complete ∧ r.con.openTransfer = .complete) →
    step s = .next t → t.Mirrored

/-- The configuration of an instance and the parameters never change but by `CON`, and the parameters not even then; the queue and
the port are not touched by any meaning (00_scope.md R9, R10, 20_memory.md R71). -/
def Obligations.OnlyConstructChangesTheConfiguration : Prop :=
  ∀ (i : Instr) (s t : State), exec i s = .next t →
    t.params = s.params ∧ t.port = s.port ∧ t.pending = s.pending ∧ (i ≠ .con → t.cfg = s.cfg)

/-- The bank registers of a variant the instance is not are touched by no operation but `CON`, and each of the twelve bank registers
only by its own write (10_state.md R24 to R26, "written by"; the map of `WideBank` is decision D11, log entry 11; that unused
registers stay in the state is log entry 20). -/
def Obligations.BankRegistersChangeOnlyByTheirWrites : Prop :=
  ∀ (i : Instr) (s t : State), exec i s = .next t → i ≠ .con →
    (t.lin ≠ s.lin → s.cfg.variant = .linearBank) ∧
    (t.lin.ramEnabled ≠ s.lin.ramEnabled → i.mnemonic = "LIN.WR.RAMEN") ∧
    (t.lin.romBank ≠ s.lin.romBank → i.mnemonic = "LIN.WR.ROMB") ∧
    (t.lin.bankSelect ≠ s.lin.bankSelect → i.mnemonic = "LIN.WR.BANKSEL") ∧
    (t.lin.modeSelect ≠ s.lin.modeSelect → i.mnemonic = "LIN.WR.MODE") ∧
    (t.wc ≠ s.wc → s.cfg.variant = .wideClock) ∧
    (t.wc.ramAndTimerEnabled ≠ s.wc.ramAndTimerEnabled → i.mnemonic = "WC.WR.EN") ∧
    (t.wc.romBank ≠ s.wc.romBank → i.mnemonic = "WC.WR.ROMB") ∧
    (t.wc.ramBankOrRtcRegister ≠ s.wc.ramBankOrRtcRegister → i.mnemonic = "WC.WR.SEL") ∧
    (t.wc.latch ≠ s.wc.latch → i.mnemonic = "WC.WR.LATCH") ∧
    (t.wb ≠ s.wb → s.cfg.variant = .wideBank) ∧
    (t.wb.ramEnabled ≠ s.wb.ramEnabled → i.mnemonic = "WB.WR.RAMEN") ∧
    (t.wb.romBankLow ≠ s.wb.romBankLow → i.mnemonic = "WB.WR.ROMB0") ∧
    (t.wb.romBankHigh ≠ s.wb.romBankHigh → i.mnemonic = "WB.WR.ROMB1") ∧
    (t.wb.ramBank ≠ s.wb.ramBank → i.mnemonic = "WB.WR.RAMB")

/-- What can move the RTC: `live`, the counter and the timestamp move only by `CON`, an RTC write or a tick of `WideClock`;
`latched` only by `CON`, an RTC write or a latch write (43_rtc.md R220, R225, R244, decisions D19, D29). -/
def Obligations.TheRtcMovesOnlyByItsOperations : Prop :=
  ∀ (i : Instr) (s t : State), exec i s = .next t → i ≠ .con →
    (t.rtc.live ≠ s.rtc.live ∨ t.rtc.cycleCounter ≠ s.rtc.cycleCounter ∨ t.rtc.lastSave ≠ s.rtc.lastSave →
      i.mnemonic ∈ ["WC.WR.RTC", "WC.TICK"]) ∧
    (t.rtc.latched ≠ s.rtc.latched → i.mnemonic ∈ ["WC.WR.RTC", "WC.WR.LATCH"])

/-- "RAM access outside the enabled state never mutates ExternalRam or PersistentStore": while the window is disabled, the RAM
changes only by `CON` or the rising edge of `LinearBank`, and the store only by `CON` or a tick of `WideClock`; and a window
access then changes neither (10_state.md R43(b), 20_memory.md R84, decision D37). -/
def Obligations.DisabledWindowProtectsRamAndStore : Prop :=
  ∀ (i : Instr) (s t : State), windowDisabled s.mode = true → exec i s = .next t →
    (t.ram ≠ s.ram → i.mnemonic ∈ ["CON", "LIN.WR.RAMEN"]) ∧
    (t.store ≠ s.store → i.mnemonic ∈ ["CON", "WC.TICK"])

/-- What can change the store at all: `CON`, the enable write of `LinearBank` while enabled, an accepted RAM write of a
write-through variant, an RTC write or a tick; on `LinearBank` a RAM write never does (20_memory.md R88, 41_linear_bank.md R171).
No operation changes whether there is a store, nor its size, but `CON`. -/
def Obligations.TheStoreChangesOnlyByItsWriters : Prop :=
  ∀ (i : Instr) (s t : State), exec i s = .next t → i ≠ .con →
    (t.store ≠ s.store →
      i.mnemonic ∈ ["WC.WR.RAM", "WC.WR.RTC", "WC.TICK", "WB.WR.RAM"] ∨
        i.mnemonic = "LIN.WR.RAMEN" ∧ s.lin.ramEnabled = true) ∧
    t.store.map Memory.size = s.store.map Memory.size

/-- A `READ` changes no architectural state: at most a warning is appended, or the fault entry is made (20_memory.md R87). -/
def Obligations.ReadsChangeNoArchitecturalState : Prop :=
  ∀ (i : Instr) (s t : State), isRead i = true → exec i s = .next t →
    t = { s with phase := t.phase, log := t.log, result := t.result } ∧
    (t.phase = s.phase ∨ ∃ off, t.phase = .faulted (.romIndex off) ∨ t.phase = .faulted (.ramIndex off)) ∧
    (t.log = s.log ∨ ∃ w, t.log = s.log ++ [w])

/-- The log is append-only, and an operation reports at most one fault or one warning (10_state.md R40, 60_exceptions.md R308,
decisions D26, D27). -/
def Obligations.AnOperationReportsAtMostOnce : Prop :=
  ∀ (i : Instr) (s t : State), exec i s = .next t → i ≠ .con →
    t.log = s.log ∨ (∃ w, t.log = s.log ++ [w]) ∧ ∀ f, t.phase ≠ .faulted f

/-- Once set, the day-carry of `live` stays set through every operation but `CON` and a direct write of day-high (10_state.md R36,
43_rtc.md R221, 70_reset_and_hazards.md R343). -/
def Obligations.TheDayCarryStaysSet : Prop :=
  ∀ (i : Instr) (s t : State), s.rtc.live.dayCarry = true → exec i s = .next t → i ≠ .con →
    (i.mnemonic = "WC.WR.RTC" → s.wc.ramBankOrRtcRegister ≠ 0x0C) → t.rtc.live.dayCarry = true

/-- No `READ` sees the live RTC, the cycle counter or the timestamp: changing them changes neither the result nor the effect of
the read (10_state.md R41, 43_rtc.md R232). -/
def Obligations.ReadsDoNotSeeTheLiveClock : Prop :=
  ∀ (i : Instr) (s t : State) (live : RtcFile) (counter : BitVec 32) (stamp : Time), isRead i = true →
    exec i s = .next t →
    exec i { s with rtc := { live := live, latched := s.rtc.latched, cycleCounter := counter, lastSave := stamp } } =
      .next { t with rtc := { live := live, latched := t.rtc.latched, cycleCounter := counter, lastSave := stamp } }

/-! ### Partial transfers -/

/-- A write-through of one byte or a whole-RAM copy that falls short continues "with whatever data was transferred": the bytes
moved are in place, the others keep their old value, and `W_PARTIAL_IO` is logged; the operation is otherwise as with a complete
transfer (45_persistent_store.md R291; that a model may drop the premise of complete transfers this way is decision D32, log
entry 19). -/
def Obligations.PartialCopyMovesAPrefixAndWarns : Prop :=
  ∀ (s : State) (a : Addr) (d : Byte) (n off : Nat) (st : Memory), s.Inv → s.port.transfer = .onlyFirst n →
    s.store = some st →
    (∀ i, (i, off) ∈
        [(Instr.wcWrRam a d, s.wc.ramBankOrRtcRegister.toNat * 8192 + (a.toNat - 0xA000)),
         (.wbWrRam a d, s.wb.ramBank.toNat * 8192 + (a.toNat - 0xA000))] →
      s.Accepts i → n = 0 → off < s.cfg.ramSize →
      ∃ ram, exec i s = .next { s with ram := ram, log := s.log ++ [.partialIo], result := .done } ∧
        ram.read off = d ∧ ∀ k, k ≠ off → ram.read k = s.ram.read k) ∧
    (s.Accepts (.linWrRamen a d) → n < s.cfg.ramSize → s.lin.ramEnabled = true → d.toNat % 16 ≠ 10 →
      ∃ st', exec (.linWrRamen a d) s = .next
          { s with
            lin := { s.lin with ramEnabled := false }
            store := some st'
            log := s.log ++ [.partialIo]
            result := .done } ∧
        (∀ k, k < n → st'.read k = s.ram.read k) ∧ (∀ k, n ≤ k → st'.read k = st.read k)) ∧
    (s.Accepts (.linWrRamen a d) → n < s.cfg.ramSize → s.lin.ramEnabled = false → d.toNat % 16 = 10 →
      ∃ ram, exec (.linWrRamen a d) s = .next
          { s with
            lin := { s.lin with ramEnabled := true }
            ram := ram
            log := s.log ++ [.partialIo]
            result := .done } ∧
        (∀ k, k < n → ram.read k = st.read k) ∧ (∀ k, n ≤ k → ram.read k = s.ram.read k))

/-- A persist of the RTC block that falls short, by an accepted RTC write or by a tick that emits a second: the first `n` bytes of
the block reach the store, every other byte of the store keeps its value, and `W_PARTIAL_IO` is logged; the RTC itself moves as
with a complete transfer (45_persistent_store.md R289, R291; decision D32, log entry 19).

The last clause is `CON` of an attached instance with any two transfers, that of `open` and that of the fast-forward's persist.
`base` is the snapshot (R288) and `g` what is loaded: the file's bytes as far as the load gets, behind them the snapshot's (R284,
R291); without a file it is the snapshot. RAM and RTC are loaded from `g`, and the fast-forward runs on that RTC (43_rtc.md R250).
The store is the file; without one it is the snapshot as far as the creation gets, behind it bytes the request gives (log entry 45);
over it lie the bytes of the block that the persist moves. Each transfer that falls short leaves one `W_PARTIAL_IO` in the new log
(log entry 44). Registers and configuration are as with complete transfers. -/
def Obligations.PartialPersistMovesAPrefixAndWarns : Prop :=
  (∀ (s : State) (n : Nat) (st : Memory), s.Inv → s.port.transfer = .onlyFirst n → n < 22 → s.store = some st →
      (∀ (a : Addr) (d : Byte) (r : Nat), s.Accepts (.wcWrRtc a d) → r = s.wc.ramBankOrRtcRegister.toNat - 0x08 →
        (r ≤ 1 → d.toNat < 60) → (r = 2 → d.toNat < 24) →
        ∃ (rtc : Rtc) (st' : Memory), exec (.wcWrRtc a d) s = .next
            { s with rtc := rtc, store := some st', log := s.log ++ [.partialIo], result := .done } ∧
          rtc.live.bytes = s.rtc.live.bytes.set r d ∧ rtc.latched.bytes = s.rtc.latched.bytes.set r d ∧
          rtc.cycleCounter = s.rtc.cycleCounter ∧ rtc.lastSave = s.port.now ∧
          (∀ k, k < n → st'.read (s.cfg.ramSize + k) = (rtcBlock rtc).getD k 0) ∧
          (∀ k, k < s.cfg.ramSize ∨ s.cfg.ramSize + n ≤ k → st'.read k = st.read k)) ∧
      (∀ sum : Nat, s.Accepts .wcTick → s.rtc.live.dayHigh.getLsbD 6 = false →
        sum = (s.rtc.cycleCounter.toNat + s.port.cyclesElapsed.toNat) % 2 ^ 32 → s.params.tickFreq ≤ sum →
        ∃ (rtc : Rtc) (st' : Memory), exec .wcTick s = .next
            { s with rtc := rtc, store := some st', log := s.log ++ [.partialIo], result := .done } ∧
          rtc =
            { live := advanceSecond s.rtc.live
              latched := s.rtc.latched
              cycleCounter := BitVec.ofNat 32 (sum % s.params.tickFreq)
              lastSave := s.port.now } ∧
          (∀ k, k < n → st'.read (s.cfg.ramSize + k) =
            (rtcBlock
              { rtc with
                cycleCounter :=
                  BitVec.ofNat 32 (if s.params.persistBeforeReduce then sum else sum % s.params.tickFreq) }).getD k 0) ∧
          (∀ k, k < s.cfg.ramSize ∨ s.cfg.ramSize + n ≤ k → st'.read k = st.read k))) ∧
  (∀ (s : State) (t : CartType) (found : Option Memory) (size : Nat) (base : Nat → Byte) (g : Memory) (saved : Rtc)
      (ticks : Bool) (live : RtcFile),
    s.Inv → typeOf s.params.typeTable s.port.con.cartridgeType = some t → t.hasBattery = true → t.variant ≠ .romOnly →
    s.port.con.img.size % 16384 = 0 → 16384 ≤ s.port.con.img.size →
    found = (match s.port.con.file0 with | .absent => none | .bytes f => some f | .leftBehind => s.store) →
    size = s.port.con.ramSizeBytes + (if t.variant = .wideClock then 22 else 0) →
    (∀ f, found = some f → f.size = size) →
    (∀ k, base k =
      if k < s.port.con.ramSizeBytes then Memory.lookup s.params.ramInit k
      else (rtcBlock (Rtc.reset s.port.now)).getD (k - s.port.con.ramSizeBytes) 0) →
    (∀ k, k < size → g.read k =
      match found with
      | some f => if k < s.port.con.openTransfer.moved size then f.read k else base k
      | none => base k) →
    saved = (if t.variant = .wideClock then rtcAt g s.port.con.ramSizeBytes else Rtc.reset s.port.now) →
    saved.inRange = true → saved.lastSave.toNat ≤ s.port.now.toNat →
    ticks = (decide (t.variant = .wideClock) && t.hasTimer) →
    live = (if ticks = true ∧ saved.live.dayHigh.getLsbD 6 = false then
      advanceElapsed (s.port.now.toNat - saved.lastSave.toNat) saved.live else saved.live) →
      ∃ (rtc : Rtc) (ram st : Memory),
        exec .con s = .next
          { params := s.params
            cfg :=
              { variant := t.variant
                img := s.port.con.img
                ramSize := s.port.con.ramSizeBytes
                hasRam := t.hasRam
                hasBattery := t.hasBattery
                hasTimer := t.hasTimer
                file0 := found }
            lin := { ramEnabled := false, romBank := s.params.resetRomBank.setWidth 5, bankSelect := 0, modeSelect := 0 }
            wc :=
              { ramAndTimerEnabled := false
                romBank := s.params.resetRomBank.setWidth 7
                ramBankOrRtcRegister := 0
                latch := s.params.latchInit }
            wb := { ramEnabled := false, romBankLow := s.params.resetRomBank, romBankHigh := 0, ramBank := 0 }
            rtc := rtc
            ram := ram
            store := some st
            phase := .live
            log := (if s.port.con.openTransfer.moved size < size then [.partialIo] else []) ++
              (if ticks = true ∧ s.port.transfer.moved 22 < 22 then [.partialIo] else [])
            result := .constructed
            port := s.port
            pending := s.pending } ∧
        rtc =
          { live := live
            latched := saved.latched
            cycleCounter := saved.cycleCounter
            lastSave := if ticks then s.port.now else saved.lastSave } ∧
        ram.size = s.port.con.ramSizeBytes ∧ (∀ k, k < s.port.con.ramSizeBytes → ram.read k = g.read k) ∧
        st.size = size ∧
        ∀ k, k < size → st.read k =
          if ticks = true ∧ s.port.con.ramSizeBytes ≤ k ∧ k < s.port.con.ramSizeBytes + s.port.transfer.moved 22 then
            (rtcBlock rtc).getD (k - s.port.con.ramSizeBytes) 0
          else
            match found with
            | some f => f.read k
            | none =>
              if k < s.port.con.openTransfer.moved size then base k else Memory.lookup s.port.con.unwritten k)
end

