-- ==== Sys2Proof/Laws/Memory.lean ====
section
/-! SUPPORT. Laws of byte arrays: read after write, a write leaves every other offset alone, and every operation keeps the
canonical form. -/

namespace Sys2Proof.Machine

/-! ### Lookup -/

@[simp] theorem Memory.lookup_nil (off : Nat) : Memory.lookup [] off = 0 := rfl

theorem Memory.lookup_cons (k : Nat) (v : Byte) (t : List Host.Cell) (off : Nat) :
    Memory.lookup ((k, v) :: t) off = if k = off then v else Memory.lookup t off := rfl

@[simp] theorem Memory.read_zeros (size off : Nat) : (Memory.zeros size).read off = 0 := rfl

@[simp] theorem Memory.size_zeros (size : Nat) : (Memory.zeros size).size = size := rfl

/-- Below the first key a canonical list gives the blank byte. -/
theorem Memory.lookup_below {lo : Nat} {cells : List Host.Cell} (h : Memory.canonicalFrom lo cells = true) {off : Nat}
    (hlt : off < lo) : Memory.lookup cells off = 0 := by
  induction cells generalizing lo with
  | nil => rfl
  | cons c t ih =>
    obtain ⟨k, v⟩ := c
    simp only [Memory.canonicalFrom, Bool.and_eq_true, decide_eq_true_eq] at h
    rw [Memory.lookup_cons, if_neg (by omega)]
    exact ih h.2 (by omega)

/-- A lookup in a filtered list sees the kept keys and nothing else. -/
theorem Memory.lookup_filter (p : Nat → Bool) (cells : List Host.Cell) (off : Nat) :
    Memory.lookup (cells.filter (fun c => p c.1)) off = if p off then Memory.lookup cells off else 0 := by
  induction cells with
  | nil => simp
  | cons c t ih =>
    obtain ⟨k, v⟩ := c
    by_cases hk : k = off
    · subst hk
      by_cases hp : p k = true <;> simp [hp, Memory.lookup_cons, ih]
    · by_cases hp : p k = true <;> simp [hp, Memory.lookup_cons, hk, ih]

/-- A lookup in two lists one after the other: the first list's keys win. -/
theorem Memory.lookup_append (p : Nat → Bool) (xs ys : List Host.Cell) (hy : ∀ c ∈ ys, p c.1 = false) (off : Nat)
    (hp : p off = true) : Memory.lookup (xs ++ ys) off = Memory.lookup xs off := by
  induction xs with
  | nil =>
    simp only [List.nil_append, Memory.lookup_nil]
    induction ys with
    | nil => rfl
    | cons c t ih =>
      obtain ⟨k, v⟩ := c
      have hk : k ≠ off := by
        rintro rfl
        simp [hp] at hy
      rw [Memory.lookup_cons, if_neg hk]
      exact ih fun c hc => hy c (List.mem_cons_of_mem _ hc)
  | cons c t ih =>
    obtain ⟨k, v⟩ := c
    simp only [List.cons_append, Memory.lookup_cons, ih]

theorem Memory.lookup_append_of_not_mem (xs ys : List Host.Cell) (off : Nat) (hx : ∀ c ∈ xs, c.1 ≠ off) :
    Memory.lookup (xs ++ ys) off = Memory.lookup ys off := by
  induction xs with
  | nil => rfl
  | cons c t ih =>
    obtain ⟨k, v⟩ := c
    rw [List.cons_append, Memory.lookup_cons, if_neg (hx (k, v) (List.mem_cons_self ..))]
    exact ih fun c hc => hx c (List.mem_cons_of_mem _ hc)

/-! ### Read and write -/

/-- Placing a byte in a canonical list: the offset then holds it, every other offset holds what it held. -/
theorem Memory.lookup_place {lo : Nat} {cells : List Host.Cell} (h : Memory.canonicalFrom lo cells = true)
    (off : Nat) (v : Byte) (k : Nat) :
    Memory.lookup (Memory.place cells off v) k = if k = off then v else Memory.lookup cells k := by
  induction cells generalizing lo with
  | nil =>
    by_cases hv : v = Memory.blank
    · subst hv
      by_cases hk : k = off <;> simp [Memory.place, hk, Memory.blank]
    · simp only [Memory.place, hv, if_false, Memory.lookup_cons, Memory.lookup_nil]
      simp [eq_comm]
  | cons c t ih =>
    obtain ⟨j, x⟩ := c
    simp only [Memory.canonicalFrom, Bool.and_eq_true, decide_eq_true_eq] at h
    obtain ⟨⟨hlo, hx⟩, ht⟩ := h
    unfold Memory.place
    by_cases h1 : off < j
    · rw [if_pos h1]
      by_cases hv : v = Memory.blank
      · rw [if_pos hv, hv]
        by_cases hk : k = off
        · rw [if_pos hk, Memory.lookup_cons, if_neg (by omega)]
          exact Memory.lookup_below ht (by omega)
        · rw [if_neg hk]
      · rw [if_neg hv, Memory.lookup_cons]
        by_cases hk : k = off
        · rw [if_pos hk.symm, if_pos hk]
        · rw [if_neg (fun e => hk e.symm), if_neg hk]
    · rw [if_neg h1]
      by_cases h2 : off = j
      · rw [if_pos h2]
        by_cases hv : v = Memory.blank
        · rw [if_pos hv, hv]
          by_cases hk : k = off
          · rw [if_pos hk]
            exact Memory.lookup_below ht (by omega)
          · rw [if_neg hk, Memory.lookup_cons, if_neg (by omega)]
        · rw [if_neg hv, Memory.lookup_cons, Memory.lookup_cons]
          by_cases hk : k = off
          · rw [if_pos (by omega), if_pos hk]
          · rw [if_neg (by omega), if_neg hk, if_neg (by omega)]
      · rw [if_neg h2, Memory.lookup_cons, Memory.lookup_cons, ih ht]
        by_cases hk : k = off
        · rw [if_neg (by omega), if_pos hk, if_pos hk]
        · rw [if_neg hk, if_neg hk]

theorem Memory.canonical_of_wf {m : Memory} (h : m.wf = true) : Memory.canonicalFrom 0 m.cells = true := by
  simp only [Memory.wf, Bool.and_eq_true] at h
  exact h.1

theorem Memory.lt_size_of_wf {m : Memory} (h : m.wf = true) {c : Host.Cell} (hc : c ∈ m.cells) : c.1 < m.size := by
  simp only [Memory.wf, Bool.and_eq_true, List.all_eq_true, decide_eq_true_eq] at h
  exact h.2 c hc

@[simp] theorem Memory.size_write (m : Memory) (off : Nat) (v : Byte) : (m.write off v).size = m.size := by
  unfold Memory.write
  split <;> rfl

/-- Read after write: below the size the written offset holds the written byte, every other offset is left alone. -/
theorem Memory.read_write {m : Memory} (h : m.wf = true) {off : Nat} (hoff : off < m.size) (v : Byte) (k : Nat) :
    (m.write off v).read k = if k = off then v else m.read k := by
  unfold Memory.write
  rw [if_pos hoff]
  exact Memory.lookup_place (Memory.canonical_of_wf h) off v k

theorem Memory.canonicalFrom_mono {lo lo' : Nat} (hle : lo' ≤ lo) {cells : List Host.Cell}
    (h : Memory.canonicalFrom lo cells = true) : Memory.canonicalFrom lo' cells = true := by
  cases cells with
  | nil => rfl
  | cons c t =>
    obtain ⟨k, v⟩ := c
    simp only [Memory.canonicalFrom, Bool.and_eq_true, decide_eq_true_eq] at h ⊢
    exact ⟨⟨by omega, h.1.2⟩, h.2⟩

theorem Memory.canonicalFrom_place {lo : Nat} {cells : List Host.Cell} (h : Memory.canonicalFrom lo cells = true)
    {off : Nat} (hlo : lo ≤ off) (v : Byte) : Memory.canonicalFrom lo (Memory.place cells off v) = true := by
  induction cells generalizing lo with
  | nil =>
    unfold Memory.place
    split
    · rfl
    · rename_i hv
      simp [Memory.canonicalFrom, hlo, hv]
  | cons c t ih =>
    obtain ⟨j, x⟩ := c
    have h' := h
    simp only [Memory.canonicalFrom, Bool.and_eq_true, decide_eq_true_eq] at h'
    obtain ⟨⟨h1, h2⟩, h3⟩ := h'
    unfold Memory.place
    split
    · rename_i hlt
      split
      · exact h
      · rename_i hv
        simp only [Memory.canonicalFrom, Bool.and_eq_true, decide_eq_true_eq]
        exact ⟨⟨hlo, hv⟩, ⟨by omega, h2⟩, h3⟩
    · split
      · split
        · exact Memory.canonicalFrom_mono (by omega) h3
        · rename_i hv
          simp only [Memory.canonicalFrom, Bool.and_eq_true, decide_eq_true_eq]
          exact ⟨⟨h1, hv⟩, h3⟩
      · simp only [Memory.canonicalFrom, Bool.and_eq_true, decide_eq_true_eq]
        exact ⟨⟨h1, h2⟩, ih h3 (by omega)⟩

theorem Memory.mem_place {cells : List Host.Cell} {off : Nat} {v : Byte} {c : Host.Cell}
    (h : c ∈ Memory.place cells off v) : c.1 = off ∨ c ∈ cells := by
  induction cells with
  | nil =>
    unfold Memory.place at h
    split at h
    · simp at h
    · simp only [List.mem_singleton] at h
      exact .inl (by rw [h])
  | cons d t ih =>
    obtain ⟨j, x⟩ := d
    unfold Memory.place at h
    split at h
    · split at h
      · exact .inr h
      · rcases List.mem_cons.1 h with rfl | h
        · exact .inl rfl
        · exact .inr h
    · split at h
      · rename_i hj
        split at h
        · exact .inr (List.mem_cons_of_mem _ h)
        · rcases List.mem_cons.1 h with rfl | h
          · exact .inl hj.symm
          · exact .inr (List.mem_cons_of_mem _ h)
      · rcases List.mem_cons.1 h with rfl | h
        · exact .inr (List.mem_cons_self ..)
        · rcases ih h with h | h
          · exact .inl h
          · exact .inr (List.mem_cons_of_mem _ h)

/-- A write keeps the canonical form. -/
theorem Memory.wf_write {m : Memory} (h : m.wf = true) (off : Nat) (v : Byte) : (m.write off v).wf = true := by
  unfold Memory.write
  split
  · rename_i hoff
    simp only [Memory.wf, Bool.and_eq_true, List.all_eq_true, decide_eq_true_eq]
    refine ⟨Memory.canonicalFrom_place (Memory.canonical_of_wf h) (Nat.zero_le _) v, fun c hc => ?_⟩
    rcases Memory.mem_place hc with hc | hc
    · omega
    · exact Memory.lt_size_of_wf h hc
  · exact h

theorem Memory.wf_zeros (size : Nat) : (Memory.zeros size).wf = true := rfl

/-! ### Several bytes -/

@[simp] theorem Memory.size_writeList (m : Memory) (off : Nat) (vs : List Byte) :
    (m.writeList off vs).size = m.size := by
  induction vs generalizing m off with
  | nil => rfl
  | cons v t ih => simp [Memory.writeList, ih]

/-- Writing several bytes keeps the canonical form. -/
theorem Memory.wf_writeList {m : Memory} (h : m.wf = true) (off : Nat) (vs : List Byte) :
    (m.writeList off vs).wf = true := by
  induction vs generalizing m off with
  | nil => exact h
  | cons v t ih => exact ih (Memory.wf_write h off v) (off + 1)

/-- Read after a write of several bytes that fits: the bytes stand from the offset on, every other offset is left alone. -/
theorem Memory.read_writeList {m : Memory} (h : m.wf = true) (off : Nat) (vs : List Byte)
    (hfit : off + vs.length ≤ m.size) (k : Nat) :
    (m.writeList off vs).read k =
      if off ≤ k ∧ k < off + vs.length then vs.getD (k - off) 0 else m.read k := by
  induction vs generalizing m off with
  | nil =>
    rw [if_neg (by simp only [List.length_nil]; omega)]
    rfl
  | cons v t ih =>
    simp only [List.length_cons] at hfit
    simp only [Memory.writeList]
    rw [ih (Memory.wf_write h off v) (off + 1) (by rw [Memory.size_write]; omega),
      Memory.read_write h (by omega)]
    simp only [List.length_cons]
    by_cases hk : k = off
    · subst hk
      rw [if_neg (by omega), if_pos rfl, if_pos (by omega)]
      simp
    · by_cases h1 : off + 1 ≤ k ∧ k < off + 1 + t.length
      · rw [if_pos h1, if_pos (by omega)]
        have : k - off = (k - (off + 1)) + 1 := by omega
        rw [this, List.getD_cons_succ]
      · rw [if_neg h1, if_neg hk, if_neg (by omega)]

@[simp] theorem Memory.size_copyFirst (dst src : Memory) (n : Nat) : (dst.copyFirst src n).size = dst.size := rfl

/-- After a copy of the first `n` bytes the offsets below `n` hold the source's bytes, the others the destination's. -/
theorem Memory.read_copyFirst (dst src : Memory) (n k : Nat) :
    (dst.copyFirst src n).read k = if k < n then src.read k else dst.read k := by
  unfold Memory.copyFirst Memory.read
  by_cases hk : k < n
  · rw [if_pos hk]
    rw [Memory.lookup_append (fun j => decide (j < n)) _ _ (by simp) k (by simpa using hk),
      Memory.lookup_filter (fun j => decide (j < n))]
    simp [hk]
  · rw [if_neg hk, Memory.lookup_append_of_not_mem _ _ _ (by simp; omega),
      Memory.lookup_filter (fun j => decide (n ≤ j))]
    simp [Nat.le_of_not_lt hk]

theorem Memory.canonicalFrom_filter (p : Nat → Bool) {lo : Nat} {cells : List Host.Cell}
    (h : Memory.canonicalFrom lo cells = true) :
    Memory.canonicalFrom lo (cells.filter (fun c => p c.1)) = true := by
  induction cells generalizing lo with
  | nil => rfl
  | cons c t ih =>
    obtain ⟨k, v⟩ := c
    simp only [Memory.canonicalFrom, Bool.and_eq_true, decide_eq_true_eq] at h
    obtain ⟨⟨h1, h2⟩, h3⟩ := h
    by_cases hp : p k = true
    · simp only [List.filter_cons, hp, if_true, Memory.canonicalFrom, Bool.and_eq_true, decide_eq_true_eq]
      exact ⟨⟨h1, h2⟩, ih h3⟩
    · simp only [List.filter_cons, hp]
      exact Memory.canonicalFrom_mono (by omega) (ih h3)

theorem Memory.canonicalFrom_append {lo n : Nat} {xs ys : List Host.Cell} (hlo : lo ≤ n)
    (hx : Memory.canonicalFrom lo xs = true) (hxn : ∀ c ∈ xs, c.1 < n) (hy : Memory.canonicalFrom n ys = true) :
    Memory.canonicalFrom lo (xs ++ ys) = true := by
  induction xs generalizing lo with
  | nil => exact Memory.canonicalFrom_mono hlo hy
  | cons c t ih =>
    obtain ⟨k, v⟩ := c
    simp only [Memory.canonicalFrom, Bool.and_eq_true, decide_eq_true_eq, List.cons_append] at hx ⊢
    obtain ⟨⟨h1, h2⟩, h3⟩ := hx
    have hk : k < n := hxn (k, v) (List.mem_cons_self ..)
    exact ⟨⟨h1, h2⟩, ih (by omega) h3 (fun c hc => hxn c (List.mem_cons_of_mem _ hc))⟩

theorem Memory.canonicalFrom_filter_ge (n : Nat) {lo : Nat} {cells : List Host.Cell}
    (h : Memory.canonicalFrom lo cells = true) :
    Memory.canonicalFrom n (cells.filter (fun c => decide (n ≤ c.1))) = true := by
  induction cells generalizing lo with
  | nil => rfl
  | cons c t ih =>
    obtain ⟨k, v⟩ := c
    have h' := h
    simp only [Memory.canonicalFrom, Bool.and_eq_true, decide_eq_true_eq] at h'
    obtain ⟨⟨h1, h2⟩, h3⟩ := h'
    by_cases hp : n ≤ k
    · simp only [List.filter_cons, hp, decide_true, if_true, Memory.canonicalFrom, Bool.and_eq_true, decide_eq_true_eq]
      exact ⟨⟨trivial, h2⟩, Memory.canonicalFrom_filter (fun j => decide (n ≤ j)) h3⟩
    · simp only [List.filter_cons, hp, decide_false]
      exact ih h3

/-- A copy of a prefix that fits keeps the canonical form. -/
theorem Memory.wf_copyFirst {dst src : Memory} (hd : dst.wf = true) (hs : src.wf = true) {n : Nat} (hn : n ≤ dst.size) :
    (dst.copyFirst src n).wf = true := by
  simp only [Memory.wf, Memory.copyFirst, Bool.and_eq_true, List.all_eq_true]
  constructor
  · refine Memory.canonicalFrom_append (n := n) (Nat.zero_le n)
      (Memory.canonicalFrom_filter (fun j => decide (j < n)) (Memory.canonical_of_wf hs)) ?_
      (Memory.canonicalFrom_filter_ge n (Memory.canonical_of_wf hd))
    intro c hc
    simpa using (List.mem_filter.1 hc).2
  · intro c hc
    rcases List.mem_append.1 hc with hc | hc
    · exact decide_eq_true (Nat.lt_of_lt_of_le (of_decide_eq_true (List.mem_filter.1 hc).2) hn)
    · exact decide_eq_true (Memory.lt_size_of_wf hd (List.mem_filter.1 hc).1)

/-! ### Equality of arrays, and the little-endian fields -/

@[simp] theorem leBytes_length (n v : Nat) : (leBytes n v).length = n := by
  induction n generalizing v with
  | zero => rfl
  | succ n ih => simp [leBytes, ih]

/-- The number read from its bytes (20_memory.md R85). -/
theorem leValue_leBytes (n v : Nat) : leValue (leBytes n v) = v % 256 ^ n := by
  induction n generalizing v with
  | zero => simp [leBytes, leValue, Nat.mod_one]
  | succ n ih =>
    simp only [leBytes, leValue, ih, BitVec.toNat_ofNat]
    rw [show (256 : Nat) ^ (n + 1) = 256 * 256 ^ n from Nat.pow_succ', Nat.mod_mul]

@[simp] theorem Memory.readList_length (m : Memory) (off n : Nat) : (m.readList off n).length = n := by
  induction n generalizing off with
  | zero => rfl
  | succ n ih => simp [Memory.readList, ih]

/-- Bytes that stand at an offset are read back from it. -/
theorem Memory.readList_eq (m : Memory) (off : Nat) (vs : List Byte)
    (h : ∀ k, k < vs.length → m.read (off + k) = vs.getD k 0) : m.readList off vs.length = vs := by
  induction vs generalizing off with
  | nil => rfl
  | cons v t ih =>
    simp only [List.length_cons, Memory.readList]
    have h0 : m.read off = v := by simpa using h 0 (by simp)
    rw [h0, ih (off + 1)]
    intro k hk
    have := h (k + 1) (by simpa using hk)
    rw [List.getD_cons_succ] at this
    rw [← this]
    congr 1
    omega

end Sys2Proof.Machine
end

