-- ==== Sys2Proof/Laws/State.lean ====
section
/-! SUPPORT. What each update of one field of the state leaves in every field: one lemma per field per update. -/

namespace Sys2Proof.Machine

@[simp] theorem State.setCfg_params (s : State) (x : CartConfig) : (s.setCfg x).params = s.params := rfl
@[simp] theorem State.setCfg_cfg (s : State) (x : CartConfig) : (s.setCfg x).cfg = x := rfl
@[simp] theorem State.setCfg_lin (s : State) (x : CartConfig) : (s.setCfg x).lin = s.lin := rfl
@[simp] theorem State.setCfg_wc (s : State) (x : CartConfig) : (s.setCfg x).wc = s.wc := rfl
@[simp] theorem State.setCfg_wb (s : State) (x : CartConfig) : (s.setCfg x).wb = s.wb := rfl
@[simp] theorem State.setCfg_rtc (s : State) (x : CartConfig) : (s.setCfg x).rtc = s.rtc := rfl
@[simp] theorem State.setCfg_ram (s : State) (x : CartConfig) : (s.setCfg x).ram = s.ram := rfl
@[simp] theorem State.setCfg_store (s : State) (x : CartConfig) : (s.setCfg x).store = s.store := rfl
@[simp] theorem State.setCfg_phase (s : State) (x : CartConfig) : (s.setCfg x).phase = s.phase := rfl
@[simp] theorem State.setCfg_log (s : State) (x : CartConfig) : (s.setCfg x).log = s.log := rfl
@[simp] theorem State.setCfg_result (s : State) (x : CartConfig) : (s.setCfg x).result = s.result := rfl
@[simp] theorem State.setCfg_port (s : State) (x : CartConfig) : (s.setCfg x).port = s.port := rfl
@[simp] theorem State.setCfg_pending (s : State) (x : CartConfig) : (s.setCfg x).pending = s.pending := rfl

@[simp] theorem State.setLin_params (s : State) (x : LinearRegs) : (s.setLin x).params = s.params := rfl
@[simp] theorem State.setLin_cfg (s : State) (x : LinearRegs) : (s.setLin x).cfg = s.cfg := rfl
@[simp] theorem State.setLin_lin (s : State) (x : LinearRegs) : (s.setLin x).lin = x := rfl
@[simp] theorem State.setLin_wc (s : State) (x : LinearRegs) : (s.setLin x).wc = s.wc := rfl
@[simp] theorem State.setLin_wb (s : State) (x : LinearRegs) : (s.setLin x).wb = s.wb := rfl
@[simp] theorem State.setLin_rtc (s : State) (x : LinearRegs) : (s.setLin x).rtc = s.rtc := rfl
@[simp] theorem State.setLin_ram (s : State) (x : LinearRegs) : (s.setLin x).ram = s.ram := rfl
@[simp] theorem State.setLin_store (s : State) (x : LinearRegs) : (s.setLin x).store = s.store := rfl
@[simp] theorem State.setLin_phase (s : State) (x : LinearRegs) : (s.setLin x).phase = s.phase := rfl
@[simp] theorem State.setLin_log (s : State) (x : LinearRegs) : (s.setLin x).log = s.log := rfl
@[simp] theorem State.setLin_result (s : State) (x : LinearRegs) : (s.setLin x).result = s.result := rfl
@[simp] theorem State.setLin_port (s : State) (x : LinearRegs) : (s.setLin x).port = s.port := rfl
@[simp] theorem State.setLin_pending (s : State) (x : LinearRegs) : (s.setLin x).pending = s.pending := rfl

@[simp] theorem State.setWc_params (s : State) (x : WideClockRegs) : (s.setWc x).params = s.params := rfl
@[simp] theorem State.setWc_cfg (s : State) (x : WideClockRegs) : (s.setWc x).cfg = s.cfg := rfl
@[simp] theorem State.setWc_lin (s : State) (x : WideClockRegs) : (s.setWc x).lin = s.lin := rfl
@[simp] theorem State.setWc_wc (s : State) (x : WideClockRegs) : (s.setWc x).wc = x := rfl
@[simp] theorem State.setWc_wb (s : State) (x : WideClockRegs) : (s.setWc x).wb = s.wb := rfl
@[simp] theorem State.setWc_rtc (s : State) (x : WideClockRegs) : (s.setWc x).rtc = s.rtc := rfl
@[simp] theorem State.setWc_ram (s : State) (x : WideClockRegs) : (s.setWc x).ram = s.ram := rfl
@[simp] theorem State.setWc_store (s : State) (x : WideClockRegs) : (s.setWc x).store = s.store := rfl
@[simp] theorem State.setWc_phase (s : State) (x : WideClockRegs) : (s.setWc x).phase = s.phase := rfl
@[simp] theorem State.setWc_log (s : State) (x : WideClockRegs) : (s.setWc x).log = s.log := rfl
@[simp] theorem State.setWc_result (s : State) (x : WideClockRegs) : (s.setWc x).result = s.result := rfl
@[simp] theorem State.setWc_port (s : State) (x : WideClockRegs) : (s.setWc x).port = s.port := rfl
@[simp] theorem State.setWc_pending (s : State) (x : WideClockRegs) : (s.setWc x).pending = s.pending := rfl

@[simp] theorem State.setWb_params (s : State) (x : WideBankRegs) : (s.setWb x).params = s.params := rfl
@[simp] theorem State.setWb_cfg (s : State) (x : WideBankRegs) : (s.setWb x).cfg = s.cfg := rfl
@[simp] theorem State.setWb_lin (s : State) (x : WideBankRegs) : (s.setWb x).lin = s.lin := rfl
@[simp] theorem State.setWb_wc (s : State) (x : WideBankRegs) : (s.setWb x).wc = s.wc := rfl
@[simp] theorem State.setWb_wb (s : State) (x : WideBankRegs) : (s.setWb x).wb = x := rfl
@[simp] theorem State.setWb_rtc (s : State) (x : WideBankRegs) : (s.setWb x).rtc = s.rtc := rfl
@[simp] theorem State.setWb_ram (s : State) (x : WideBankRegs) : (s.setWb x).ram = s.ram := rfl
@[simp] theorem State.setWb_store (s : State) (x : WideBankRegs) : (s.setWb x).store = s.store := rfl
@[simp] theorem State.setWb_phase (s : State) (x : WideBankRegs) : (s.setWb x).phase = s.phase := rfl
@[simp] theorem State.setWb_log (s : State) (x : WideBankRegs) : (s.setWb x).log = s.log := rfl
@[simp] theorem State.setWb_result (s : State) (x : WideBankRegs) : (s.setWb x).result = s.result := rfl
@[simp] theorem State.setWb_port (s : State) (x : WideBankRegs) : (s.setWb x).port = s.port := rfl
@[simp] theorem State.setWb_pending (s : State) (x : WideBankRegs) : (s.setWb x).pending = s.pending := rfl

@[simp] theorem State.setRtc_params (s : State) (x : Rtc) : (s.setRtc x).params = s.params := rfl
@[simp] theorem State.setRtc_cfg (s : State) (x : Rtc) : (s.setRtc x).cfg = s.cfg := rfl
@[simp] theorem State.setRtc_lin (s : State) (x : Rtc) : (s.setRtc x).lin = s.lin := rfl
@[simp] theorem State.setRtc_wc (s : State) (x : Rtc) : (s.setRtc x).wc = s.wc := rfl
@[simp] theorem State.setRtc_wb (s : State) (x : Rtc) : (s.setRtc x).wb = s.wb := rfl
@[simp] theorem State.setRtc_rtc (s : State) (x : Rtc) : (s.setRtc x).rtc = x := rfl
@[simp] theorem State.setRtc_ram (s : State) (x : Rtc) : (s.setRtc x).ram = s.ram := rfl
@[simp] theorem State.setRtc_store (s : State) (x : Rtc) : (s.setRtc x).store = s.store := rfl
@[simp] theorem State.setRtc_phase (s : State) (x : Rtc) : (s.setRtc x).phase = s.phase := rfl
@[simp] theorem State.setRtc_log (s : State) (x : Rtc) : (s.setRtc x).log = s.log := rfl
@[simp] theorem State.setRtc_result (s : State) (x : Rtc) : (s.setRtc x).result = s.result := rfl
@[simp] theorem State.setRtc_port (s : State) (x : Rtc) : (s.setRtc x).port = s.port := rfl
@[simp] theorem State.setRtc_pending (s : State) (x : Rtc) : (s.setRtc x).pending = s.pending := rfl

@[simp] theorem State.setRam_params (s : State) (x : Memory) : (s.setRam x).params = s.params := rfl
@[simp] theorem State.setRam_cfg (s : State) (x : Memory) : (s.setRam x).cfg = s.cfg := rfl
@[simp] theorem State.setRam_lin (s : State) (x : Memory) : (s.setRam x).lin = s.lin := rfl
@[simp] theorem State.setRam_wc (s : State) (x : Memory) : (s.setRam x).wc = s.wc := rfl
@[simp] theorem State.setRam_wb (s : State) (x : Memory) : (s.setRam x).wb = s.wb := rfl
@[simp] theorem State.setRam_rtc (s : State) (x : Memory) : (s.setRam x).rtc = s.rtc := rfl
@[simp] theorem State.setRam_ram (s : State) (x : Memory) : (s.setRam x).ram = x := rfl
@[simp] theorem State.setRam_store (s : State) (x : Memory) : (s.setRam x).store = s.store := rfl
@[simp] theorem State.setRam_phase (s : State) (x : Memory) : (s.setRam x).phase = s.phase := rfl
@[simp] theorem State.setRam_log (s : State) (x : Memory) : (s.setRam x).log = s.log := rfl
@[simp] theorem State.setRam_result (s : State) (x : Memory) : (s.setRam x).result = s.result := rfl
@[simp] theorem State.setRam_port (s : State) (x : Memory) : (s.setRam x).port = s.port := rfl
@[simp] theorem State.setRam_pending (s : State) (x : Memory) : (s.setRam x).pending = s.pending := rfl

@[simp] theorem State.setStore_params (s : State) (x : Option Memory) : (s.setStore x).params = s.params := rfl
@[simp] theorem State.setStore_cfg (s : State) (x : Option Memory) : (s.setStore x).cfg = s.cfg := rfl
@[simp] theorem State.setStore_lin (s : State) (x : Option Memory) : (s.setStore x).lin = s.lin := rfl
@[simp] theorem State.setStore_wc (s : State) (x : Option Memory) : (s.setStore x).wc = s.wc := rfl
@[simp] theorem State.setStore_wb (s : State) (x : Option Memory) : (s.setStore x).wb = s.wb := rfl
@[simp] theorem State.setStore_rtc (s : State) (x : Option Memory) : (s.setStore x).rtc = s.rtc := rfl
@[simp] theorem State.setStore_ram (s : State) (x : Option Memory) : (s.setStore x).ram = s.ram := rfl
@[simp] theorem State.setStore_store (s : State) (x : Option Memory) : (s.setStore x).store = x := rfl
@[simp] theorem State.setStore_phase (s : State) (x : Option Memory) : (s.setStore x).phase = s.phase := rfl
@[simp] theorem State.setStore_log (s : State) (x : Option Memory) : (s.setStore x).log = s.log := rfl
@[simp] theorem State.setStore_result (s : State) (x : Option Memory) : (s.setStore x).result = s.result := rfl
@[simp] theorem State.setStore_port (s : State) (x : Option Memory) : (s.setStore x).port = s.port := rfl
@[simp] theorem State.setStore_pending (s : State) (x : Option Memory) : (s.setStore x).pending = s.pending := rfl

@[simp] theorem State.setPhase_params (s : State) (x : Phase) : (s.setPhase x).params = s.params := rfl
@[simp] theorem State.setPhase_cfg (s : State) (x : Phase) : (s.setPhase x).cfg = s.cfg := rfl
@[simp] theorem State.setPhase_lin (s : State) (x : Phase) : (s.setPhase x).lin = s.lin := rfl
@[simp] theorem State.setPhase_wc (s : State) (x : Phase) : (s.setPhase x).wc = s.wc := rfl
@[simp] theorem State.setPhase_wb (s : State) (x : Phase) : (s.setPhase x).wb = s.wb := rfl
@[simp] theorem State.setPhase_rtc (s : State) (x : Phase) : (s.setPhase x).rtc = s.rtc := rfl
@[simp] theorem State.setPhase_ram (s : State) (x : Phase) : (s.setPhase x).ram = s.ram := rfl
@[simp] theorem State.setPhase_store (s : State) (x : Phase) : (s.setPhase x).store = s.store := rfl
@[simp] theorem State.setPhase_phase (s : State) (x : Phase) : (s.setPhase x).phase = x := rfl
@[simp] theorem State.setPhase_log (s : State) (x : Phase) : (s.setPhase x).log = s.log := rfl
@[simp] theorem State.setPhase_result (s : State) (x : Phase) : (s.setPhase x).result = s.result := rfl
@[simp] theorem State.setPhase_port (s : State) (x : Phase) : (s.setPhase x).port = s.port := rfl
@[simp] theorem State.setPhase_pending (s : State) (x : Phase) : (s.setPhase x).pending = s.pending := rfl

@[simp] theorem State.setLog_params (s : State) (x : List Warning) : (s.setLog x).params = s.params := rfl
@[simp] theorem State.setLog_cfg (s : State) (x : List Warning) : (s.setLog x).cfg = s.cfg := rfl
@[simp] theorem State.setLog_lin (s : State) (x : List Warning) : (s.setLog x).lin = s.lin := rfl
@[simp] theorem State.setLog_wc (s : State) (x : List Warning) : (s.setLog x).wc = s.wc := rfl
@[simp] theorem State.setLog_wb (s : State) (x : List Warning) : (s.setLog x).wb = s.wb := rfl
@[simp] theorem State.setLog_rtc (s : State) (x : List Warning) : (s.setLog x).rtc = s.rtc := rfl
@[simp] theorem State.setLog_ram (s : State) (x : List Warning) : (s.setLog x).ram = s.ram := rfl
@[simp] theorem State.setLog_store (s : State) (x : List Warning) : (s.setLog x).store = s.store := rfl
@[simp] theorem State.setLog_phase (s : State) (x : List Warning) : (s.setLog x).phase = s.phase := rfl
@[simp] theorem State.setLog_log (s : State) (x : List Warning) : (s.setLog x).log = x := rfl
@[simp] theorem State.setLog_result (s : State) (x : List Warning) : (s.setLog x).result = s.result := rfl
@[simp] theorem State.setLog_port (s : State) (x : List Warning) : (s.setLog x).port = s.port := rfl
@[simp] theorem State.setLog_pending (s : State) (x : List Warning) : (s.setLog x).pending = s.pending := rfl

@[simp] theorem State.setResult_params (s : State) (x : Result) : (s.setResult x).params = s.params := rfl
@[simp] theorem State.setResult_cfg (s : State) (x : Result) : (s.setResult x).cfg = s.cfg := rfl
@[simp] theorem State.setResult_lin (s : State) (x : Result) : (s.setResult x).lin = s.lin := rfl
@[simp] theorem State.setResult_wc (s : State) (x : Result) : (s.setResult x).wc = s.wc := rfl
@[simp] theorem State.setResult_wb (s : State) (x : Result) : (s.setResult x).wb = s.wb := rfl
@[simp] theorem State.setResult_rtc (s : State) (x : Result) : (s.setResult x).rtc = s.rtc := rfl
@[simp] theorem State.setResult_ram (s : State) (x : Result) : (s.setResult x).ram = s.ram := rfl
@[simp] theorem State.setResult_store (s : State) (x : Result) : (s.setResult x).store = s.store := rfl
@[simp] theorem State.setResult_phase (s : State) (x : Result) : (s.setResult x).phase = s.phase := rfl
@[simp] theorem State.setResult_log (s : State) (x : Result) : (s.setResult x).log = s.log := rfl
@[simp] theorem State.setResult_result (s : State) (x : Result) : (s.setResult x).result = x := rfl
@[simp] theorem State.setResult_port (s : State) (x : Result) : (s.setResult x).port = s.port := rfl
@[simp] theorem State.setResult_pending (s : State) (x : Result) : (s.setResult x).pending = s.pending := rfl

@[simp] theorem State.setPort_params (s : State) (x : Request) : (s.setPort x).params = s.params := rfl
@[simp] theorem State.setPort_cfg (s : State) (x : Request) : (s.setPort x).cfg = s.cfg := rfl
@[simp] theorem State.setPort_lin (s : State) (x : Request) : (s.setPort x).lin = s.lin := rfl
@[simp] theorem State.setPort_wc (s : State) (x : Request) : (s.setPort x).wc = s.wc := rfl
@[simp] theorem State.setPort_wb (s : State) (x : Request) : (s.setPort x).wb = s.wb := rfl
@[simp] theorem State.setPort_rtc (s : State) (x : Request) : (s.setPort x).rtc = s.rtc := rfl
@[simp] theorem State.setPort_ram (s : State) (x : Request) : (s.setPort x).ram = s.ram := rfl
@[simp] theorem State.setPort_store (s : State) (x : Request) : (s.setPort x).store = s.store := rfl
@[simp] theorem State.setPort_phase (s : State) (x : Request) : (s.setPort x).phase = s.phase := rfl
@[simp] theorem State.setPort_log (s : State) (x : Request) : (s.setPort x).log = s.log := rfl
@[simp] theorem State.setPort_result (s : State) (x : Request) : (s.setPort x).result = s.result := rfl
@[simp] theorem State.setPort_port (s : State) (x : Request) : (s.setPort x).port = x := rfl
@[simp] theorem State.setPort_pending (s : State) (x : Request) : (s.setPort x).pending = s.pending := rfl

@[simp] theorem State.setPending_params (s : State) (x : List Request) : (s.setPending x).params = s.params := rfl
@[simp] theorem State.setPending_cfg (s : State) (x : List Request) : (s.setPending x).cfg = s.cfg := rfl
@[simp] theorem State.setPending_lin (s : State) (x : List Request) : (s.setPending x).lin = s.lin := rfl
@[simp] theorem State.setPending_wc (s : State) (x : List Request) : (s.setPending x).wc = s.wc := rfl
@[simp] theorem State.setPending_wb (s : State) (x : List Request) : (s.setPending x).wb = s.wb := rfl
@[simp] theorem State.setPending_rtc (s : State) (x : List Request) : (s.setPending x).rtc = s.rtc := rfl
@[simp] theorem State.setPending_ram (s : State) (x : List Request) : (s.setPending x).ram = s.ram := rfl
@[simp] theorem State.setPending_store (s : State) (x : List Request) : (s.setPending x).store = s.store := rfl
@[simp] theorem State.setPending_phase (s : State) (x : List Request) : (s.setPending x).phase = s.phase := rfl
@[simp] theorem State.setPending_log (s : State) (x : List Request) : (s.setPending x).log = s.log := rfl
@[simp] theorem State.setPending_result (s : State) (x : List Request) : (s.setPending x).result = s.result := rfl
@[simp] theorem State.setPending_port (s : State) (x : List Request) : (s.setPending x).port = s.port := rfl
@[simp] theorem State.setPending_pending (s : State) (x : List Request) : (s.setPending x).pending = x := rfl

end Sys2Proof.Machine
end

