-- ==== Sys2Proof/Laws/Ops.lean ====
section
/-! SUPPORT. One lemma per shared operation that says everything it can do. -/

namespace Sys2Proof.Machine

/-! ### The first tests -/

/-- An accepted operation is its meaning. -/
theorem whenRow_of_accepts {i : Instr} {s : State} (h : s.Accepts i) (m : Out) : whenRow i s m = m := by
  obtain ⟨h1, h2, h3⟩ := h
  simp [whenRow, h1, h2, h3]

/-- An operation that ends in a next state was accepted, and its meaning ends there. -/
theorem whenRow_next {i : Instr} {s t : State} {m : Out} (h : whenRow i s m = .next t) : s.Accepts i ∧ m = .next t := by
  unfold whenRow at h
  split at h
  · rename_i hp
    split at h
    · rename_i hw
      rw [Bool.and_eq_true] at hw
      exact ⟨⟨hp, hw.1, hw.2⟩, h⟩
    · cases h
  · cases h

/-- Outside the phase `Live` an operation is refused. -/
theorem whenRow_of_not_live {i : Instr} {s : State} (h : s.phase ≠ .live) (m : Out) :
    whenRow i s m = .refused .notLive := by
  simp [whenRow, h]

/-- An operation ends in the outcome `fault` only if its meaning does. -/
theorem whenRow_ne_fault {i : Instr} {s : State} {m : Out} {f : Fault} (h : m ≠ .fault f) : whenRow i s m ≠ .fault f := by
  unfold whenRow
  split
  · split
    · exact h
    · simp
  · simp

/-! ### Ending an operation -/

theorem complete_eq (r : Result) (s : State) : complete r s = .next { s with result := r } := rfl

theorem raise_eq (f : Fault) (s : State) :
    raise f s = .next { s with phase := .faulted f, result := .fault f } := rfl

@[simp] theorem complete_next_iff {r : Result} {s t : State} : complete r s = .next t ↔ t = { s with result := r } := by
  rw [complete_eq]
  exact ⟨fun h => (Host.Outcome.next.inj h).symm, fun h => h ▸ rfl⟩

@[simp] theorem raise_next_iff {f : Fault} {s t : State} :
    raise f s = .next t ↔ t = { s with phase := .faulted f, result := .fault f } := by
  rw [raise_eq]
  exact ⟨fun h => (Host.Outcome.next.inj h).symm, fun h => h ▸ rfl⟩

@[simp] theorem complete_ne_fault (r : Result) (s : State) (f : Fault) : complete r s ≠ .fault f := by simp [complete]

@[simp] theorem raise_ne_fault (g : Fault) (s : State) (f : Fault) : raise g s ≠ .fault f := by simp [raise]

theorem warn_eq (w : Warning) (s : State) : warn w s = { s with log := s.log ++ [w] } := rfl

theorem disabledRead_eq (a : Addr) (b : Byte) (s : State) :
    disabledRead a b s = .next { s with log := s.log ++ [.ramDisabledRead a], result := .byte b } := rfl

theorem disabledWrite_eq (a : Addr) (d : Byte) (s : State) :
    disabledWrite a d s = .next { s with log := s.log ++ [.ramDisabledWrite a d], result := .done } := rfl

theorem delegateRead_eq (a : Addr) (s : State) : delegateRead a s = .next { s with result := .delegatedRead a } := rfl

theorem delegateWrite_eq (a : Addr) (d : Byte) (s : State) :
    delegateWrite a d s = .next { s with result := .delegatedWrite a d } := rfl

/-! ### Accesses with a bound -/

/-- A read of the image gives the byte below the size and the fault past it. -/
theorem readImage_eq (off : Nat) (s : State) :
    readImage off s =
      if off < s.cfg.img.size then .next { s with result := .byte (s.cfg.img.read off) }
      else .next { s with phase := .faulted (.romIndex off), result := .fault (.romIndex off) } := rfl

/-- A read of the RAM gives the byte below the size and the fault past it. -/
theorem readRam_eq (off : Nat) (s : State) :
    readRam off s =
      if off < s.cfg.ramSize then .next { s with result := .byte (s.ram.read off) }
      else .next { s with phase := .faulted (.ramIndex off), result := .fault (.ramIndex off) } := rfl

/-- A write of the RAM puts the byte and mirrors it below the size and takes the fault past it. -/
theorem writeRam_eq (off : Nat) (d : Byte) (mirror : State → State) (s : State) :
    writeRam off d mirror s =
      if off < s.cfg.ramSize then .next { mirror { s with ram := s.ram.write off d } with result := .done }
      else .next { s with phase := .faulted (.ramIndex off), result := .fault (.ramIndex off) } := rfl

/-- The only refusal of an RTC access is that its row does not match; otherwise it is the meaning of the selected register. -/
theorem withRtcReg_next {s t : State} {m : RtcReg → Out} (h : withRtcReg s m = .next t) :
    ∃ r, selectorOf s.wc.ramBankOrRtcRegister = .rtc r ∧ m r = .next t := by
  unfold withRtcReg at h
  split at h
  · rename_i r hr
    exact ⟨r, hr, h⟩
  · cases h
  · cases h

theorem withRtcReg_of_rtc {s : State} {r : RtcReg} (h : selectorOf s.wc.ramBankOrRtcRegister = .rtc r)
    (m : RtcReg → Out) : withRtcReg s m = m r := by
  simp [withRtcReg, h]

/-! ### The window of `WideClock` -/

/-- The selector classes as ranges (10_state.md R28, R35). -/
theorem selectorOf_cases (v : Byte) :
    (v.toNat ≤ 3 ∧ selectorOf v = .ram v.toNat) ∨
    (v = 0x08 ∧ selectorOf v = .rtc .seconds) ∨
    (v = 0x09 ∧ selectorOf v = .rtc .minutes) ∨
    (v = 0x0A ∧ selectorOf v = .rtc .hours) ∨
    (v = 0x0B ∧ selectorOf v = .rtc .dayLow) ∨
    (v = 0x0C ∧ selectorOf v = .rtc .dayHigh) ∨
    ((4 ≤ v.toNat ∧ v.toNat ≤ 7 ∨ 13 ≤ v.toNat) ∧ selectorOf v = .unmapped) := by
  revert v
  decide

/-- The class of an accepted RTC access. -/
theorem selector_of_window_rtc {s : State} (h : s.window = .rtc) :
    ∃ r, selectorOf s.wc.ramBankOrRtcRegister = .rtc r := by
  unfold State.window at h
  split at h
  · revert h
    cases selectorOf s.wc.ramBankOrRtcRegister <;> simp [windowOf]
  · cases h

/-- The mode of an accepted `WideClock` operation is the window's. -/
theorem mode_wideClock {s : State} (h : s.cfg.variant = .wideClock) : s.mode = .wideClock s.window := by
  simp [State.mode, h]

/-- An operation of `WideClock` with a window condition applies only in that window. -/
theorem window_of_applies {s : State} {w : Window} (h : (RowCond.wideClock (some w)).holds s.mode = true) :
    s.cfg.variant = .wideClock ∧ s.window = w := by
  revert h
  unfold State.mode
  cases s.cfg.variant <;> simp [RowCond.holds, admits, eq_comm]

end Sys2Proof.Machine
end

