-- ==== Sys2Proof/Laws/PerInstr.lean ====
section
/-! SUPPORT. Per-instruction family `EncodedFields`: the word of an operation carries its address and its datum, and 0 in a field
the operation does not have (30_encoding.md R100). -/

namespace Sys2Proof

/-! ### Unpacking a packed word -/

/-- Each bit of a packed word (30_encoding.md R100). -/
theorem opWord_getLsbD (k : BitVec 3) (a : Addr) (d : Byte) (i : Nat) :
    (opWord k a d).getLsbD i = if i < 8 then d.getLsbD i else if i < 24 then a.getLsbD (i - 8) else k.getLsbD (i - 24) := by
  have h : (opWord k a d).getLsbD i = (k ++ a ++ d : BitVec (3 + 16 + 8)).getLsbD i := rfl
  rw [h, BitVec.getLsbD_append, BitVec.getLsbD_append]
  by_cases h1 : i < 8
  · simp [h1]
  · by_cases h2 : i < 24
    · simp [h1, h2, show i - 8 < 16 by omega]
    · simp [h1, h2, show ¬ i - 8 < 16 by omega, show i - 8 - 16 = i - 24 by omega]

@[simp] theorem kindField_opWord (k : BitVec 3) (a : Addr) (d : Byte) : kindField (opWord k a d) = k := by
  apply BitVec.eq_of_getLsbD_eq
  intro i hi
  simp [kindField, opWord_getLsbD, hi, show ¬ 24 + i < 8 by omega]

@[simp] theorem addrField_opWord (k : BitVec 3) (a : Addr) (d : Byte) : addrField (opWord k a d) = a := by
  apply BitVec.eq_of_getLsbD_eq
  intro i hi
  simp [addrField, opWord_getLsbD, hi, show 8 + i < 24 by omega]

@[simp] theorem datumField_opWord (k : BitVec 3) (a : Addr) (d : Byte) : datumField (opWord k a d) = d := by
  apply BitVec.eq_of_getLsbD_eq
  intro i hi
  simp [datumField, opWord_getLsbD, hi]

namespace Laws.EncodedFields

/-- The address and the datum of an operation stand in its word. -/
def Statement (i : Instr) : Prop := addrField (encode i) = i.addr ∧ datumField (encode i) = i.datum

theorem of_word {i : Instr} (k : BitVec 3) (h : encode i = opWord k i.addr i.datum) : Statement i := by
  unfold Statement
  rw [h]
  exact ⟨addrField_opWord .., datumField_opWord ..⟩

theorem con : Statement .con := of_word 4 rfl
theorem fin : Statement .fin := of_word 3 rfl
theorem roTick : Statement .roTick := of_word 2 rfl
theorem roRdRom0 (a : Addr) : Statement (.roRdRom0 a) := of_word 0 rfl
theorem roRdRomx (a : Addr) : Statement (.roRdRomx a) := of_word 0 rfl
theorem roRdWin (a : Addr) : Statement (.roRdWin a) := of_word 0 rfl
theorem roWrRom (a : Addr) (d : Byte) : Statement (.roWrRom a d) := of_word 1 rfl
theorem roWrWin (a : Addr) (d : Byte) : Statement (.roWrWin a d) := of_word 1 rfl
theorem roRdExt (a : Addr) : Statement (.roRdExt a) := of_word 0 rfl
theorem roWrExt (a : Addr) (d : Byte) : Statement (.roWrExt a d) := of_word 1 rfl
theorem linTick : Statement .linTick := of_word 2 rfl
theorem linRdRom0 (a : Addr) : Statement (.linRdRom0 a) := of_word 0 rfl
theorem linRdRomx (a : Addr) : Statement (.linRdRomx a) := of_word 0 rfl
theorem linRdRam (a : Addr) : Statement (.linRdRam a) := of_word 0 rfl
theorem linRdRamoff (a : Addr) : Statement (.linRdRamoff a) := of_word 0 rfl
theorem linWrRamen (a : Addr) (d : Byte) : Statement (.linWrRamen a d) := of_word 1 rfl
theorem linWrRomb (a : Addr) (d : Byte) : Statement (.linWrRomb a d) := of_word 1 rfl
theorem linWrBanksel (a : Addr) (d : Byte) : Statement (.linWrBanksel a d) := of_word 1 rfl
theorem linWrMode (a : Addr) (d : Byte) : Statement (.linWrMode a d) := of_word 1 rfl
theorem linWrRam (a : Addr) (d : Byte) : Statement (.linWrRam a d) := of_word 1 rfl
theorem linWrRamoff (a : Addr) (d : Byte) : Statement (.linWrRamoff a d) := of_word 1 rfl
theorem linRdExt (a : Addr) : Statement (.linRdExt a) := of_word 0 rfl
theorem linWrExt (a : Addr) (d : Byte) : Statement (.linWrExt a d) := of_word 1 rfl
theorem wcTick : Statement .wcTick := of_word 2 rfl
theorem wcRdRom0 (a : Addr) : Statement (.wcRdRom0 a) := of_word 0 rfl
theorem wcRdRomx (a : Addr) : Statement (.wcRdRomx a) := of_word 0 rfl
theorem wcRdRam (a : Addr) : Statement (.wcRdRam a) := of_word 0 rfl
theorem wcRdRtc (a : Addr) : Statement (.wcRdRtc a) := of_word 0 rfl
theorem wcRdBadsel (a : Addr) : Statement (.wcRdBadsel a) := of_word 0 rfl
theorem wcRdOff (a : Addr) : Statement (.wcRdOff a) := of_word 0 rfl
theorem wcWrEn (a : Addr) (d : Byte) : Statement (.wcWrEn a d) := of_word 1 rfl
theorem wcWrRomb (a : Addr) (d : Byte) : Statement (.wcWrRomb a d) := of_word 1 rfl
theorem wcWrSel (a : Addr) (d : Byte) : Statement (.wcWrSel a d) := of_word 1 rfl
theorem wcWrLatch (a : Addr) (d : Byte) : Statement (.wcWrLatch a d) := of_word 1 rfl
theorem wcWrRam (a : Addr) (d : Byte) : Statement (.wcWrRam a d) := of_word 1 rfl
theorem wcWrRtc (a : Addr) (d : Byte) : Statement (.wcWrRtc a d) := of_word 1 rfl
theorem wcWrBadsel (a : Addr) (d : Byte) : Statement (.wcWrBadsel a d) := of_word 1 rfl
theorem wcWrOff (a : Addr) (d : Byte) : Statement (.wcWrOff a d) := of_word 1 rfl
theorem wcRdExt (a : Addr) : Statement (.wcRdExt a) := of_word 0 rfl
theorem wcWrExt (a : Addr) (d : Byte) : Statement (.wcWrExt a d) := of_word 1 rfl
theorem wbTick : Statement .wbTick := of_word 2 rfl
theorem wbRdRom0 (a : Addr) : Statement (.wbRdRom0 a) := of_word 0 rfl
theorem wbRdRomx (a : Addr) : Statement (.wbRdRomx a) := of_word 0 rfl
theorem wbRdRam (a : Addr) : Statement (.wbRdRam a) := of_word 0 rfl
theorem wbRdRamoff (a : Addr) : Statement (.wbRdRamoff a) := of_word 0 rfl
theorem wbWrRamen (a : Addr) (d : Byte) : Statement (.wbWrRamen a d) := of_word 1 rfl
theorem wbWrRomb0 (a : Addr) (d : Byte) : Statement (.wbWrRomb0 a d) := of_word 1 rfl
theorem wbWrRomb1 (a : Addr) (d : Byte) : Statement (.wbWrRomb1 a d) := of_word 1 rfl
theorem wbWrRamb (a : Addr) (d : Byte) : Statement (.wbWrRamb a d) := of_word 1 rfl
theorem wbWrNop (a : Addr) (d : Byte) : Statement (.wbWrNop a d) := of_word 1 rfl
theorem wbWrRam (a : Addr) (d : Byte) : Statement (.wbWrRam a d) := of_word 1 rfl
theorem wbWrRamoff (a : Addr) (d : Byte) : Statement (.wbWrRamoff a d) := of_word 1 rfl
theorem wbRdExt (a : Addr) : Statement (.wbRdExt a) := of_word 0 rfl
theorem wbWrExt (a : Addr) (d : Byte) : Statement (.wbWrExt a d) := of_word 1 rfl

end Laws.EncodedFields
end Sys2Proof
end

