-- ==== Sys2Proof/Laws/Store.lean ====
section
/-! SUPPORT. What the procedures of the persistent store do: which fields they touch, and that they keep the canonical form. -/

namespace Sys2Proof.Machine

/-! ### Transfers -/

@[simp] theorem Transfer.moved_complete (len : Nat) : Transfer.complete.moved len = len := rfl

theorem Transfer.moved_of_covers {t : Transfer} {len : Nat} (h : t.covers len = true) : t.moved len = len := by
  cases t with
  | complete => rfl
  | onlyFirst n => exact Nat.min_eq_right (of_decide_eq_true h)

theorem Transfer.moved_le (t : Transfer) (len : Nat) : t.moved len ≤ len := by
  cases t with
  | complete => exact Nat.le_refl _
  | onlyFirst n => exact Nat.min_le_right _ _

/-- A transfer that falls short is noted in the log; nothing else happens. -/
theorem notePartial_eq (t : Transfer) (len : Nat) (s : State) :
    notePartial t len s =
      { s with log := if t.moved len < len then s.log ++ [.partialIo] else s.log } := by
  unfold notePartial
  split <;> rfl

/-- A complete transfer is not noted. -/
theorem notePartial_complete (len : Nat) (s : State) : notePartial .complete len s = s := by
  simp [notePartial]

/-- Only the log can change, by one record. -/
theorem notePartial_cases (t : Transfer) (len : Nat) (s : State) :
    notePartial t len s = s ∨ notePartial t len s = { s with log := s.log ++ [.partialIo] } := by
  rw [notePartial_eq]
  split
  · exact .inr rfl
  · exact .inl rfl

/-! ### The mirror of one byte -/

/-- Without a store nothing is mirrored; with one, the store takes the byte (or, with a transfer of no byte, stays) and the log
at most a note. -/
theorem mirrorByte_cases (off : Nat) (d : Byte) (s : State) :
    (s.store = none ∧ mirrorByte off d s = s) ∨
    ∃ st, s.store = some st ∧
      ((s.port.transfer.moved 1 = 1 ∧ mirrorByte off d s = { s with store := some (st.write off d) }) ∨
       (s.port.transfer.moved 1 = 0 ∧ mirrorByte off d s = { s with log := s.log ++ [.partialIo] })) := by
  cases hs : s.store with
  | none => exact .inl ⟨rfl, by simp [mirrorByte, hs]⟩
  | some st =>
    refine .inr ⟨st, rfl, ?_⟩
    have hle := Transfer.moved_le s.port.transfer 1
    rcases Nat.lt_or_ge (s.port.transfer.moved 1) 1 with h | h
    · have h0 : s.port.transfer.moved 1 = 0 := by omega
      refine .inr ⟨h0, ?_⟩
      cases s
      simp_all [mirrorByte, notePartial, Memory.writeList, warn, State.setStore, State.setLog]
    · have h1 : s.port.transfer.moved 1 = 1 := by omega
      exact .inl ⟨h1, by simp [mirrorByte, notePartial, hs, h1, Memory.writeList, State.setStore]⟩

/-! ### The RTC block -/

@[simp] theorem rtcBlock_length (r : Rtc) : (rtcBlock r).length = 22 := by
  simp [rtcBlock, RtcFile.bytes]

/-- Only the timestamp, the store and the log can change: the store takes what is moved of the block. -/
theorem persistRtcBlock_cases (now : Time) (s : State) :
    (s.store = none ∧ persistRtcBlock now s = { s with rtc := { s.rtc with lastSave := now } }) ∨
    ∃ st log, s.store = some st ∧ (log = s.log ∨ log = s.log ++ [.partialIo]) ∧
      (s.port.transfer.covers 22 = true → log = s.log) ∧
      persistRtcBlock now s =
        { s with
          rtc := { s.rtc with lastSave := now }
          store := some (st.writeList s.cfg.ramSize
            ((rtcBlock { s.rtc with lastSave := now }).take (s.port.transfer.moved 22)))
          log := log } := by
  cases hs : s.store with
  | none => exact .inl ⟨rfl, by simp [persistRtcBlock, hs, State.setRtc]⟩
  | some st =>
    refine .inr ⟨st, if s.port.transfer.moved 22 < 22 then s.log ++ [.partialIo] else s.log, rfl, ?_, ?_, ?_⟩
    · split
      · exact .inr rfl
      · exact .inl rfl
    · intro h
      simp [Transfer.moved_of_covers h]
    · simp [persistRtcBlock, hs, notePartial_eq, State.setStore, State.setRtc, Config.rtcBlockBytes]

/-! ### The bulk transfers of `LinearBank` -/

/-- Only the RAM and the log can change. -/
theorem loadRam_cases (s : State) :
    (s.store = none ∧ loadRam s = s) ∨
    ∃ st log, s.store = some st ∧ (log = s.log ∨ log = s.log ++ [.partialIo]) ∧
      (s.port.transfer.covers s.cfg.ramSize = true → log = s.log) ∧
      loadRam s = { s with ram := s.ram.copyFirst st (s.port.transfer.moved s.cfg.ramSize), log := log } := by
  cases hs : s.store with
  | none => exact .inl ⟨rfl, by simp [loadRam, hs]⟩
  | some st =>
    refine .inr ⟨st, if s.port.transfer.moved s.cfg.ramSize < s.cfg.ramSize then s.log ++ [.partialIo] else s.log,
      rfl, ?_, ?_, ?_⟩
    · split
      · exact .inr rfl
      · exact .inl rfl
    · intro h
      simp [Transfer.moved_of_covers h]
    · simp [loadRam, hs, notePartial_eq, State.setRam]

/-- Only the store and the log can change. -/
theorem saveRam_cases (s : State) :
    (s.store = none ∧ saveRam s = s) ∨
    ∃ st log, s.store = some st ∧ (log = s.log ∨ log = s.log ++ [.partialIo]) ∧
      (s.port.transfer.covers s.cfg.ramSize = true → log = s.log) ∧
      saveRam s =
        { s with store := some (st.copyFirst s.ram (s.port.transfer.moved s.cfg.ramSize)), log := log } := by
  cases hs : s.store with
  | none => exact .inl ⟨rfl, by simp [saveRam, hs]⟩
  | some st =>
    refine .inr ⟨st, if s.port.transfer.moved s.cfg.ramSize < s.cfg.ramSize then s.log ++ [.partialIo] else s.log,
      rfl, ?_, ?_, ?_⟩
    · split
      · exact .inr rfl
      · exact .inl rfl
    · intro h
      simp [Transfer.moved_of_covers h]
    · simp [saveRam, hs, notePartial_eq, State.setStore]

/-! ### Every memory of the machine keeps its form -/

theorem Memory.wf_ofCells {cells : List Host.Cell} (h : Memory.canonicalFrom 0 cells = true) (size : Nat) :
    (Memory.ofCells size cells).wf = true := by
  simp only [Memory.wf, Memory.ofCells, Bool.and_eq_true, List.all_eq_true]
  exact ⟨Memory.canonicalFrom_filter (fun j => decide (j < size)) h, fun c hc => (List.mem_filter.1 hc).2⟩

theorem Memory.read_ofCells (size : Nat) (cells : List Host.Cell) (k : Nat) :
    (Memory.ofCells size cells).read k = if k < size then Memory.lookup cells k else 0 := by
  unfold Memory.ofCells Memory.read
  rw [Memory.lookup_filter (fun j => decide (j < size))]
  simp

theorem Memory.wf_initialRam {p : Params} (h : paramsOk p = true) (size : Nat) : (initialRam p size).wf = true := by
  simp only [paramsOk, Bool.and_eq_true] at h
  exact Memory.wf_ofCells h.2 size

theorem Memory.read_initialRam (p : Params) (size k : Nat) :
    (initialRam p size).read k = if k < size then Memory.lookup p.ramInit k else 0 := by
  exact Memory.read_ofCells size p.ramInit k

/-- An array in a larger one: the added bytes are blank. -/
theorem Memory.wf_grow {m : Memory} (h : m.wf = true) {size : Nat} (hle : m.size ≤ size) :
    (Memory.mk size m.cells).wf = true := by
  simp only [Memory.wf, Bool.and_eq_true, List.all_eq_true]
  exact ⟨Memory.canonical_of_wf h, fun c hc => decide_eq_true (Nat.lt_of_lt_of_le (Memory.lt_size_of_wf h hc) hle)⟩

theorem le_storeSizeOf (v : Variant) (n : Nat) : n ≤ storeSizeOf v n := by
  cases v <;> simp [storeSizeOf]

/-- The snapshot of a canonical RAM is canonical. -/
theorem Memory.wf_snapshot {s : State} (h : s.ram.wf = true) (hsize : s.ram.size = s.cfg.ramSize) :
    (snapshot s).wf = true := by
  have hg : (Memory.mk (storeSizeOf s.cfg.variant s.cfg.ramSize) s.ram.cells).wf = true :=
    Memory.wf_grow h (by rw [hsize]; exact le_storeSizeOf _ _)
  unfold snapshot
  cases hv : s.cfg.variant <;> rw [hv] at hg
  · exact hg
  · exact hg
  · exact Memory.wf_writeList hg _ _
  · exact hg

@[simp] theorem size_snapshot (s : State) : (snapshot s).size = s.storeSize := by
  unfold snapshot State.storeSize
  cases s.cfg.variant <;> simp

/-- The RAM part of the snapshot is the RAM (45_persistent_store.md R288). -/
theorem read_snapshot_ram {s : State} (h : s.ram.wf = true) (hsize : s.ram.size = s.cfg.ramSize) {k : Nat}
    (hk : k < s.cfg.ramSize) : (snapshot s).read k = s.ram.read k := by
  have hg : (Memory.mk (storeSizeOf s.cfg.variant s.cfg.ramSize) s.ram.cells).wf = true :=
    Memory.wf_grow h (by rw [hsize]; exact le_storeSizeOf _ _)
  unfold snapshot
  cases hv : s.cfg.variant <;> rw [hv] at hg
  · rfl
  · rfl
  · refine (Memory.read_writeList hg _ _ ?_ k).trans (if_neg (by omega))
    simp [storeSizeOf, Config.rtcBlockBytes]
  · rfl

theorem opened_le (s : State) : s.opened ≤ s.storeSize := Transfer.moved_le _ _

/-- What is loaded: the save file as far as the transfer gets, behind it the snapshot. -/
theorem read_loadedImage (f : Memory) (s : State) (k : Nat) :
    (loadedImage f s).read k = if k < s.opened then f.read k else (snapshot s).read k :=
  Memory.read_copyFirst _ _ _ _

theorem wf_loadedImage {f : Memory} {s : State} (hf : f.wf = true) (h : s.ram.wf = true)
    (hsize : s.ram.size = s.cfg.ramSize) : (loadedImage f s).wf = true :=
  Memory.wf_copyFirst (Memory.wf_snapshot h hsize) hf (by rw [size_snapshot]; exact opened_le s)

@[simp] theorem size_createdStore (s : State) : (createdStore s).size = s.storeSize := rfl

/-- What a new store holds: the snapshot as far as the transfer gets, behind it the unwritten bytes. -/
theorem read_createdStore (s : State) (k : Nat) :
    (createdStore s).read k =
      if k < s.opened then (snapshot s).read k
      else if k < s.storeSize then Memory.lookup s.port.con.unwritten k else 0 := by
  unfold createdStore
  rw [Memory.read_copyFirst, Memory.read_ofCells]

theorem wf_createdStore {s : State} (hu : Memory.canonicalFrom 0 s.port.con.unwritten = true) (h : s.ram.wf = true)
    (hsize : s.ram.size = s.cfg.ramSize) : (createdStore s).wf = true :=
  Memory.wf_copyFirst (Memory.wf_ofCells hu _) (Memory.wf_snapshot h hsize) (opened_le s)

/-- What the load touches: the RAM, and on `WideClock` the RTC. -/
theorem loadState_eq (st : Memory) (s : State) :
    loadState st s =
      { s with
        ram := s.ram.copyFirst st s.cfg.ramSize
        rtc := if s.cfg.variant = .wideClock then rtcAt st s.cfg.ramSize else s.rtc } := by
  unfold loadState
  cases s.cfg.variant <;> rfl

/-- Everything `open` can do. -/
theorem openStore_cases (s : State) :
    (s.cfg.attached = false ∧ openStore s = { s with store := none }) ∨
    (s.cfg.attached = true ∧ ∃ log, log = (if s.opened < s.storeSize then s.log ++ [.partialIo] else s.log) ∧
      ((s.cfg.file0 = none ∧ openStore s = { s with store := some (createdStore s), log := log }) ∨
       ∃ f, s.cfg.file0 = some f ∧
        openStore s =
          { s with
            store := some f
            ram := s.ram.copyFirst (loadedImage f s) s.cfg.ramSize
            rtc := if s.cfg.variant = .wideClock then rtcAt (loadedImage f s) s.cfg.ramSize else s.rtc
            log := log })) := by
  unfold openStore
  cases ha : s.cfg.attached with
  | false => exact .inl ⟨rfl, rfl⟩
  | true =>
    refine .inr ⟨rfl, _, rfl, ?_⟩
    rw [if_pos rfl, notePartial_eq]
    cases hf : s.cfg.file0 with
    | none => exact .inl ⟨rfl, rfl⟩
    | some f => exact .inr ⟨f, rfl, by simp only [loadState_eq]; rfl⟩

/-- The memories of the reset state are in canonical form. -/
theorem reset_memories_wf :
    State.reset.cfg.img.wf = true ∧ State.reset.ram.wf = true ∧ ∀ st, State.reset.store = some st → st.wf = true := by
  refine ⟨rfl, rfl, ?_⟩
  rintro st ⟨⟩
  rfl

end Sys2Proof.Machine
end

