-- ==== Sys2Proof/Tests/Slice0.lean ====
section
/-! SUPPORT. Tests: ill-formed terms refused, decoding of words written out from the spec, single steps with results from
95_test_vectors.md (or worked out by hand from the cited rule), and a witness for the hypotheses of every statement. -/

namespace Sys2Proof.Tests

open Sys2Proof.Machine

/-! ### Ill-formed terms (30_encoding.md R105, column "region") -/

theorem test_wf_rom0 : ([Instr.roRdRom0 0x4000, .linRdRom0 0x4000, .wcRdRom0 0x4000, .wbRdRom0 0x4000].map Instr.wf) =
    [false, false, false, false] := by decide

theorem test_wf_romx : ([Instr.roRdRomx 0x3FFF, .linRdRomx 0x8000, .wcRdRomx 0x3FFF, .wbRdRomx 0x8000].map Instr.wf) =
    [false, false, false, false] := by decide

theorem test_wf_window_reads :
    ([Instr.roRdWin 0x9FFF, .linRdRam 0xC000, .linRdRamoff 0x9FFF, .wcRdRam 0xC000, .wcRdRtc 0x9FFF, .wcRdBadsel 0xC000,
      .wcRdOff 0x9FFF, .wbRdRam 0xC000, .wbRdRamoff 0x9FFF].map Instr.wf) =
    [false, false, false, false, false, false, false, false, false] := by decide

theorem test_wf_window_writes :
    ([Instr.roWrWin 0x9FFF 0, .linWrRam 0xC000 0, .linWrRamoff 0x9FFF 0, .wcWrRam 0xC000 0, .wcWrRtc 0x9FFF 0,
      .wcWrBadsel 0xC000 0, .wcWrOff 0x9FFF 0, .wbWrRam 0xC000 0, .wbWrRamoff 0x9FFF 0].map Instr.wf) =
    [false, false, false, false, false, false, false, false, false] := by decide

theorem test_wf_register_writes :
    ([Instr.roWrRom 0x8000 0, .linWrRamen 0x2000 0, .linWrRomb 0x1FFF 0, .linWrBanksel 0x3FFF 0, .linWrMode 0x5FFF 0,
      .wcWrEn 0x2000 0, .wcWrRomb 0x4000 0, .wcWrSel 0x6000 0, .wcWrLatch 0x8000 0].map Instr.wf) =
    [false, false, false, false, false, false, false, false, false] := by decide

theorem test_wf_wideBank_writes :
    ([Instr.wbWrRamen 0x2000 0, .wbWrRomb0 0x3000 0, .wbWrRomb1 0x2FFF 0, .wbWrRamb 0x6000 0, .wbWrNop 0x5FFF 0].map
      Instr.wf) = [false, false, false, false, false] := by decide

theorem test_wf_outside :
    ([Instr.roRdExt 0xA000, .linRdExt 0xBFFF, .wcRdExt 0x7FFF, .wbRdExt 0xA000].map Instr.wf ++
      [Instr.roWrExt 0xA000 0, .linWrExt 0x7FFF 0, .wcWrExt 0xBFFF 0, .wbWrExt 0x0000 0].map Instr.wf) =
    [false, false, false, false, false, false, false, false] := by decide

/-! ### Words written out from 30_encoding.md R100 and 95_test_vectors.md V-ENC -/

theorem test_decode_common : decode .romOnly 0x4000000 = .ok .con ∧ decode (.wideBank true) 0x3000000 = .ok .fin := by decide

theorem test_decode_romOnly :
    decode .romOnly 0x2000000 = .ok .roTick ∧ decode .romOnly 0x03FFF00 = .ok (.roRdRom0 0x3FFF) ∧
    decode .romOnly 0x0400000 = .ok (.roRdRomx 0x4000) ∧ decode .romOnly 0x0BFFF00 = .ok (.roRdWin 0xBFFF) ∧
    decode .romOnly 0x17FFF00 = .ok (.roWrRom 0x7FFF 0x00) ∧ decode .romOnly 0x1A00042 = .ok (.roWrWin 0xA000 0x42) ∧
    decode .romOnly 0x0800000 = .ok (.roRdExt 0x8000) ∧ decode .romOnly 0x1C00012 = .ok (.roWrExt 0xC000 0x12) := by decide

theorem test_decode_linearBank :
    decode (.linearBank true) 0x2000000 = .ok .linTick ∧ decode (.linearBank true) 0x0000000 = .ok (.linRdRom0 0x0000) ∧
    decode (.linearBank true) 0x07FFF00 = .ok (.linRdRomx 0x7FFF) ∧
    decode (.linearBank true) 0x0A00000 = .ok (.linRdRam 0xA000) ∧
    decode (.linearBank false) 0x0A00000 = .ok (.linRdRamoff 0xA000) ∧
    decode (.linearBank false) 0x100000A = .ok (.linWrRamen 0x0000 0x0A) ∧
    decode (.linearBank false) 0x1300001 = .ok (.linWrRomb 0x3000 0x01) ∧
    decode (.linearBank false) 0x15FFF03 = .ok (.linWrBanksel 0x5FFF 0x03) ∧
    decode (.linearBank false) 0x1600100 = .ok (.linWrMode 0x6001 0x00) ∧
    decode (.linearBank true) 0x1BFFFFF = .ok (.linWrRam 0xBFFF 0xFF) ∧
    decode (.linearBank false) 0x1BFFFFF = .ok (.linWrRamoff 0xBFFF 0xFF) ∧
    decode (.linearBank true) 0x0FFFF00 = .ok (.linRdExt 0xFFFF) ∧
    decode (.linearBank true) 0x1800012 = .ok (.linWrExt 0x8000 0x12) := by decide

theorem test_decode_wideClock :
    decode (.wideClock .off) 0x2000000 = .ok .wcTick ∧ decode (.wideClock .off) 0x03FFF00 = .ok (.wcRdRom0 0x3FFF) ∧
    decode (.wideClock .off) 0x0400000 = .ok (.wcRdRomx 0x4000) ∧
    decode (.wideClock .off) 0x11FFF0B = .ok (.wcWrEn 0x1FFF 0x0B) ∧
    decode (.wideClock .off) 0x12FFF00 = .ok (.wcWrRomb 0x2FFF 0x00) ∧
    decode (.wideClock .off) 0x1400008 = .ok (.wcWrSel 0x4000 0x08) ∧
    decode (.wideClock .off) 0x1600001 = .ok (.wcWrLatch 0x6000 0x01) ∧
    decode (.wideClock .off) 0x0C00000 = .ok (.wcRdExt 0xC000) ∧
    decode (.wideClock .off) 0x1C00012 = .ok (.wcWrExt 0xC000 0x12) := by decide

theorem test_decode_wideClock_window :
    [Window.off, .ram, .rtc, .badSel].map (fun win => decode (.wideClock win) 0x0BFFF00) =
      [.ok (.wcRdOff 0xBFFF), .ok (.wcRdRam 0xBFFF), .ok (.wcRdRtc 0xBFFF), .ok (.wcRdBadsel 0xBFFF)] ∧
    [Window.off, .ram, .rtc, .badSel].map (fun win => decode (.wideClock win) 0x1A00042) =
      [.ok (.wcWrOff 0xA000 0x42), .ok (.wcWrRam 0xA000 0x42), .ok (.wcWrRtc 0xA000 0x42), .ok (.wcWrBadsel 0xA000 0x42)] := by
  decide

theorem test_decode_wideBank :
    decode (.wideBank true) 0x2000000 = .ok .wbTick ∧ decode (.wideBank true) 0x0000000 = .ok (.wbRdRom0 0x0000) ∧
    decode (.wideBank true) 0x07FFF00 = .ok (.wbRdRomx 0x7FFF) ∧ decode (.wideBank true) 0x0A00000 = .ok (.wbRdRam 0xA000) ∧
    decode (.wideBank false) 0x0A00000 = .ok (.wbRdRamoff 0xA000) ∧
    decode (.wideBank false) 0x100000A = .ok (.wbWrRamen 0x0000 0x0A) ∧
    decode (.wideBank false) 0x12FFF00 = .ok (.wbWrRomb0 0x2FFF 0x00) ∧
    decode (.wideBank false) 0x1300001 = .ok (.wbWrRomb1 0x3000 0x01) ∧
    decode (.wideBank false) 0x15FFF03 = .ok (.wbWrRamb 0x5FFF 0x03) ∧
    decode (.wideBank false) 0x17FFF00 = .ok (.wbWrNop 0x7FFF 0x00) ∧
    decode (.wideBank true) 0x1A00042 = .ok (.wbWrRam 0xA000 0x42) ∧
    decode (.wideBank false) 0x1A00042 = .ok (.wbWrRamoff 0xA000 0x42) ∧
    decode (.wideBank true) 0x09FFF00 = .ok (.wbRdExt 0x9FFF) ∧
    decode (.wideBank true) 0x1C00012 = .ok (.wbWrExt 0xC000 0x12) := by decide

theorem test_no_operations :
    decode .romOnly 0x5000000 = .error .reservedKind ∧ decode .romOnly 0x6000000 = .error .reservedKind ∧
    decode .romOnly 0x7000000 = .error .reservedKind ∧ decode .romOnly 0x2000001 = .error .nonzeroFields ∧
    decode .romOnly 0x0400001 = .error .readWithDatum ∧ decode .romOnly 0x4000100 = .error .nonzeroFields := by decide

theorem test_decodeTableWord :
    decodeTableWord 32 0x2000000 = some .wcTick ∧ decodeTableWord 32 0x1400008 = some (.wcWrSel 0x4000 0x08) ∧
    decodeTableWord 32 0x5000000 = none := by decide

/-! ### Small states -/

/-- Four banks; the first byte of bank b is b (as in TAGIMG of 95_test_vectors.md), and 0x0150 holds 0x50. -/
def image : Memory := { size := 65536, cells := [(0x150, 0x50), (0x4000, 0x01), (0x8000, 0x02), (0xC000, 0x03)] }

/-- An instance with battery, 16 KiB of RAM whose first byte is 0x42, and `TICK_FREQ` 100. -/
def base (v : Variant) (timer : Bool) (store : Option Memory) : State :=
  { State.reset with
    params := { Config.defaultParams with tickFreq := 100 }
    cfg :=
      { variant := v
        img := image
        ramSize := 16384
        hasRam := true
        hasBattery := true
        hasTimer := timer
        file0 := none }
    ram := { size := 16384, cells := [(0, 0x42)] }
    store := store
    port := { State.resetRequest with now := 1000, cyclesElapsed := 100 } }

def romOnlyState : State := base .romOnly false none

def linearState (en : Bool) : State :=
  { base .linearBank false (some { size := 16384, cells := [(0, 0x42)] }) with
    lin := { ramEnabled := en, romBank := 1, bankSelect := 0, modeSelect := 0 } }

def clockState (en : Bool) (sel : Byte) : State :=
  { base .wideClock true (some { size := 16406, cells := [(0, 0x42)] }) with
    wc := { ramAndTimerEnabled := en, romBank := 1, ramBankOrRtcRegister := sel, latch := 0 }
    rtc :=
      { live := { seconds := 59, minutes := 59, hours := 23, dayLow := 0xFF, dayHigh := 0x01 }
        latched := { seconds := 7, minutes := 8, hours := 9, dayLow := 10, dayHigh := 0x41 }
        cycleCounter := 30
        lastSave := 900 } }

def wideBankState (en : Bool) : State :=
  { base .wideBank false (some { size := 16384, cells := [(0, 0x42)] }) with
    wb := { ramEnabled := en, romBankLow := 1, romBankHigh := 0, ramBank := 0 } }

/-- A field of the next state of an outcome. -/
def nextOf {α : Type} (f : State → α) (o : Out) : Option α :=
  match o with
  | .next t => some (f t)
  | .fault _ => none
  | .refused _ => none

/-- A field of the state after one operation word. -/
def after {α : Type} (f : State → α) (w : Nat) (s : State) : Option α := nextOf f (step (s.withFetchWord 32 w))

/-! ### Single steps: RomOnly (95_test_vectors.md V-RO) -/

theorem test_roRdRom0 : after State.result 0x0015000 romOnlyState = some (.byte 0x50) := by decide
theorem test_roRdRomx : after State.result 0x0400000 romOnlyState = some (.byte 0x01) := by decide
theorem test_roRdWin : after (fun t => (t.result, t.log)) 0x0A00000 romOnlyState =
    some (.byte 0xFF, [.ramDisabledRead 0xA000]) := by decide
theorem test_roWrRom : after (fun t => (t.result, t.log)) 0x1200005 romOnlyState = some (.done, []) := by decide
theorem test_roWrWin : after (fun t => (t.result, t.log)) 0x1A00012 romOnlyState =
    some (.done, [.ramDisabledWrite 0xA000 0x12]) := by decide
theorem test_roRdExt : after State.result 0x0FFFF00 romOnlyState = some (.delegatedRead 0xFFFF) := by decide
theorem test_roWrExt : after State.result 0x1800012 romOnlyState = some (.delegatedWrite 0x8000 0x12) := by decide
theorem test_roTick : after State.result 0x2000000 romOnlyState = some .done := by decide

/-! ### Single steps: LinearBank (41_linear_bank.md, corner cases and examples of each rule) -/

theorem test_linRdRomx_mode0 : after State.result 0x0400000
    { linearState false with lin := { ramEnabled := false, romBank := 3, bankSelect := 2, modeSelect := 1 } } =
      some (.byte 0x03) := by decide
/-- In mode 0 a `bankSelect` of 2 forces bit 3: bank 11 lies past this image of four banks. -/
theorem test_linRdRomx_past : after State.result 0x0400000
    { linearState false with lin := { ramEnabled := false, romBank := 3, bankSelect := 2, modeSelect := 0 } } =
      some (.fault (.romIndex 0x2C000)) := by decide
theorem test_linWrRomb_zero : after (fun t => t.lin.romBank) 0x1200000 (linearState false) = some 1 := by decide
theorem test_linWrRomb_masked : after (fun t => t.lin.romBank) 0x1200020 (linearState false) = some 0 := by decide
theorem test_linWrBanksel_3 : after (fun t => t.lin.bankSelect) 0x1400003 (linearState false) = some 2 := by decide
theorem test_linWrBanksel_FD : after (fun t => t.lin.bankSelect) 0x14000FD (linearState false) = some 0 := by decide
theorem test_linWrMode_even : after (fun t => t.lin.modeSelect) 0x1600001 (linearState false) = some 0 := by decide
theorem test_linWrMode_odd : after (fun t => t.lin.modeSelect) 0x1600100 (linearState false) = some 1 := by decide
theorem test_linRdRam : after State.result 0x0A00000 (linearState true) = some (.byte 0x42) := by decide
theorem test_linRdRam_bound : after (fun t => (t.result, t.phase)) 0x0A80000
    { linearState true with cfg := { (linearState true).cfg with ramSize := 2048 } } =
      some (.fault (.ramIndex 2048), .faulted (.ramIndex 2048)) := by decide
theorem test_linWrRam : after (fun t => (t.ram.read 1, t.store.map (fun st => st.read 1))) 0x1A00199 (linearState true) =
    some (0x99, some 0x00) := by decide
theorem test_linRdRamoff : after State.result 0x0A00000 (linearState false) = some (.byte 0x00) := by decide
theorem test_linWrRamoff : after (fun t => t.ram.read 0) 0x1A00099 (linearState false) = some 0x42 := by decide
theorem test_linWrRamen_falling : after (fun t => (t.lin.ramEnabled, t.store.map (fun st => st.read 5))) 0x1000000
    { linearState true with ram := { size := 16384, cells := [(5, 0x77)] } } = some (false, some 0x77) := by decide
theorem test_linWrRamen_rising : after (fun t => (t.lin.ramEnabled, t.ram.read 0, t.ram.read 5)) 0x10000FA
    { linearState false with ram := { size := 16384, cells := [(5, 0x77)] } } = some (true, 0x42, 0x00) := by decide

/-! ### Single steps: WideClock (42_wide_clock_bank.md, 43_rtc.md) -/

theorem test_wcWrEn : after (fun t => t.wc.ramAndTimerEnabled) 0x100001A (clockState false 0) = some true := by decide
theorem test_wcWrEn_off : after (fun t => t.wc.ramAndTimerEnabled) 0x11FFF0B (clockState true 0) = some false := by decide
theorem test_wcWrRomb_zero : after (fun t => t.wc.romBank) 0x1200000 (clockState false 0) = some 1 := by decide
theorem test_wcWrRomb_80 : after (fun t => t.wc.romBank) 0x1200080 (clockState false 0) = some 0 := by decide
theorem test_wcWrSel : after (fun t => t.wc.ramBankOrRtcRegister) 0x14000FF (clockState false 0) = some 0xFF := by decide
theorem test_wcRdRomx : after State.result 0x0400000 (clockState false 0) = some (.byte 0x01) := by decide
theorem test_wcRdRam_bank1 : after State.result 0x0A00500
    { clockState true 1 with ram := { size := 16384, cells := [(0x2005, 0x9C)] } } = some (.byte 0x9C) := by decide
theorem test_wcRdRam_bound : after State.result 0x0A00000 (clockState true 2) = some (.fault (.ramIndex 0x4000)) := by decide
theorem test_wcWrRam : after (fun t => (t.ram.read 0x2123, t.store.map (fun st => st.read 0x2123))) 0x1A1237E
    (clockState true 1) = some (0x7E, some 0x7E) := by decide
theorem test_wcRdRtc_dayHigh : after State.result 0x0BFFF00 (clockState true 0x0C) = some (.byte 0x41) := by decide
theorem test_wcRdRtc_seconds : after State.result 0x0A00000 (clockState true 0x08) = some (.byte 7) := by decide
theorem test_wcWrRtc_60 : after (fun t => t.rtc) 0x1A0003C (clockState true 0x08) = some (clockState true 0x08).rtc := by
  decide
theorem test_wcWrRtc_59 : after (fun t => (t.rtc.live.minutes, t.rtc.latched.minutes, t.rtc.lastSave)) 0x1A0003B
    (clockState true 0x09) = some (59, 59, 1000) := by decide
theorem test_wcRdBadsel : after (fun t => (t.result, t.log)) 0x0A00000 (clockState true 0x05) =
    some (.byte 0x00, [.badSelectorRead 0x05]) := by decide
theorem test_wcWrBadsel : after (fun t => (t.ram.read 0, t.log)) 0x1A00001 (clockState true 0x0D) =
    some (0x42, [.badSelectorWrite 0x0D 0x01]) := by decide
theorem test_wcRdOff : after State.result 0x0A00000 (clockState false 0x08) = some (.byte 0x00) := by decide
theorem test_wcWrOff : after (fun t => t.rtc) 0x1A0001E (clockState false 0x08) = some (clockState false 0x08).rtc := by
  decide
theorem test_wcWrLatch_edge : after (fun t => (t.rtc.latched.hours, t.wc.latch)) 0x1600001 (clockState false 0) =
    some (23, 1) := by decide
theorem test_wcWrLatch_no_edge : after (fun t => (t.rtc.latched.hours, t.wc.latch)) 0x1600081 (clockState false 0) =
    some (9, 0x81) := by decide
/-- 43_rtc.md R224's example, with 30 + 100 cycles. -/
theorem test_wcTick : after (fun t => (t.rtc.live, t.rtc.cycleCounter, t.rtc.lastSave)) 0x2000000 (clockState false 0) =
    some (⟨0, 0, 0, 0x00, 0x80⟩, 30, 1000) := by decide
/-- 43_rtc.md R241. -/
theorem test_wcTick_halted : after (fun t => (t.rtc.live.seconds, t.rtc.cycleCounter, t.rtc.lastSave)) 0x2000000
    { clockState false 0 with rtc := { (clockState false 0).rtc with live := ⟨5, 0, 0, 0, 0x40⟩ } } = some (5, 130, 900) := by
  decide

/-! ### Single steps: WideBank (44_wide_bank.md, V-WB2) -/

theorem test_wbWrRamen : after (fun t => t.wb.ramEnabled) 0x100000A (wideBankState false) = some true := by decide
theorem test_wbWrRomb0 : after (fun t => t.wb.romBankLow) 0x12FFF00 (wideBankState false) = some 0 := by decide
theorem test_wbWrRomb1 : after (fun t => t.wb.romBankHigh) 0x13FFFFE (wideBankState false) = some 0 := by decide
theorem test_wbWrRamb_10 : after (fun t => t.wb.ramBank) 0x1400010
    { wideBankState false with wb := { ramEnabled := false, romBankLow := 1, romBankHigh := 0, ramBank := 2 } } = some 2 := by
  decide
theorem test_wbWrRamb_09 : after (fun t => t.wb.ramBank) 0x1400009
    { wideBankState false with wb := { ramEnabled := false, romBankLow := 1, romBankHigh := 0, ramBank := 2 } } = some 1 := by
  decide
theorem test_wbWrNop : after (fun t => (t.wb, t.log)) 0x1600001 (wideBankState true) =
    some ((wideBankState true).wb, []) := by decide
theorem test_wbRdRomx_past : after State.result 0x0400000
    { wideBankState true with wb := { ramEnabled := true, romBankLow := 0, romBankHigh := 1, ramBank := 0 } } =
      some (.fault (.romIndex 0x400000)) := by decide
theorem test_wbRdRam : after State.result 0x0A00000 (wideBankState true) = some (.byte 0x42) := by decide
theorem test_wbWrRam : after (fun t => (t.ram.read 0x1FFF, t.store.map (fun st => st.read 0x1FFF))) 0x1BFFFFF
    (wideBankState true) = some (0xFF, some 0xFF) := by decide
theorem test_wbRdRamoff : after (fun t => (t.result, t.log)) 0x0A00000 (wideBankState false) =
    some (.byte 0x00, [.ramDisabledRead 0xA000]) := by decide
theorem test_wbWrRamoff : after (fun t => t.ram.read 0) 0x1A00099 (wideBankState false) = some 0x42 := by decide

/-! ### Construction and finalisation -/

theorem test_fin : after State.phase 0x3000000 (linearState true) = some .finalized := by decide

/-- A word after the end of the session is refused (30_encoding.md R109). -/
theorem test_after_fin : after State.result 0x0000000 { linearState true with phase := .finalized } = none := by decide

/-- A `LinearBank` cartridge (type code 0x03 in the table of G1) with a save file. -/
def conRequest (code : Byte) (file : SaveFile) : Request :=
  { word := 0x4000000
    cyclesElapsed := 0
    now := 4661
    con :=
      { cartridgeType := code
        ramSizeBytes := 16
        img := image
        file0 := file
        openTransfer := .complete
        unwritten := [] }
    transfer := .complete }

def conState (code : Byte) (file : SaveFile) : State := { romOnlyState with port := conRequest code file }

theorem test_con_linear : after (fun t => (t.cfg.variant, t.ram.read 3, t.lin.romBank)) 0x4000000
    (conState 0x03 (.bytes { size := 16, cells := [(3, 0x33)] })) = some (.linearBank, 0x33, 1) := by decide

theorem test_con_unsupported : after (fun t => (t.result, t.phase)) 0x4000000 (conState 0x05 .absent) =
    some (.fault (.unsupportedType 0x05), .faulted (.unsupportedType 0x05)) := by decide

/-- The save file of 95_test_vectors.md E5: `live` (10, 20, 5, 3, 0), `lastSave` 1000, for a RAM of 16 bytes. -/
def clockFile : Memory :=
  { size := 38, cells := [(16, 10), (17, 20), (18, 5), (19, 3), (30, 0xE8), (31, 0x03)] }

/-- E5: one hour, one minute, one second later. -/
theorem test_fastForward :
    nextOf (fun t => (t.rtc.live, t.rtc.lastSave)) (execCon (conState 0x10 (.bytes clockFile))) = some (⟨11, 21, 6, 3, 0⟩, 4661) := by decide +kernel

/-- A `CON` whose `open` moves only `n` bytes, and a file system that leaves 0xEE at offset 12 of a new store. -/
def shortOpen (n : Nat) (s : State) : State :=
  { s with port := { s.port with con := { s.port.con with openTransfer := .onlyFirst n, unwritten := [(12, 0xEE)] } } }

/-- 45_persistent_store.md R291, load: the bytes present are taken, behind them the snapshot's (`RAM_INIT`, 0x00) stay. -/
theorem test_con_short_load :
    nextOf (fun t => (t.ram.read 3, t.ram.read 9, t.store.map (fun st => st.read 9), t.log))
      (execCon (shortOpen 9 (conState 0x03 (.bytes { size := 16, cells := [(3, 0x33), (9, 0x99)] })))) =
    some (0x33, 0x00, some 0x99, [.partialIo]) := by decide

/-- 45_persistent_store.md R291, creation: the snapshot's bytes as far as they go, behind them what the file system left. -/
theorem test_con_short_creation :
    nextOf (fun t => (t.ram.read 12, t.store.map (fun st => (st.size, st.read 3, st.read 12)), t.log))
      (execCon (shortOpen 9 (conState 0x03 .absent))) = some (0x00, some (16, 0x00, 0xEE), [.partialIo]) := by decide

/-- E3. -/
theorem test_day_wrap : advanceDay ⟨5, 6, 7, 0xFF, 0x01⟩ = ⟨5, 6, 7, 0x00, 0x80⟩ ∧
    advanceDay ⟨5, 6, 7, 0xFF, 0x81⟩ = ⟨5, 6, 7, 0x00, 0x80⟩ ∧
    advanceDay ⟨5, 6, 7, 0x00, 0x80⟩ = ⟨5, 6, 7, 0x01, 0x80⟩ := by decide

/-! ### Witnesses: the hypotheses of each statement are met together by a concrete state -/

/-- The invariant as a test that runs. -/
def invCheck (s : State) : Bool :=
  paramsOk s.params && imageSizeOk s.cfg.img && s.cfg.img.wf && s.ram.wf && decide (s.ram.size = s.cfg.ramSize) &&
    decide (s.store.isSome = s.cfg.attached) && (s.store.all fun st => storeFits s.cfg st) && s.rtc.inRange &&
    (decide (s.lin.bankSelect = 0) || decide (s.lin.bankSelect = 2)) && s.port.wf && s.pending.all Request.wf

theorem inv_of_check {s : State} (h : invCheck s = true) : s.Inv := by
  simp only [invCheck, Bool.and_eq_true, decide_eq_true_eq, Bool.or_eq_true, List.all_eq_true] at h
  obtain ⟨⟨⟨⟨⟨⟨⟨⟨⟨⟨h1, h2⟩, h3⟩, h4⟩, h5⟩, h6⟩, h7⟩, h8⟩, h9⟩, h10⟩, h11⟩ := h
  refine ⟨h1, h2, h3, h4, h5, h6, fun st hs => ?_, h8, h9, h10, h11⟩
  rw [hs] at h7
  exact h7

/-- Acceptance as a test that runs. -/
def accepts (s : State) (i : Instr) : Bool := decide (s.phase = .live) && i.wf && i.appliesIn s.mode

theorem accepts_of_check {s : State} {i : Instr} (h : accepts s i = true) : s.Accepts i := by
  simp only [accepts, Bool.and_eq_true, decide_eq_true_eq] at h
  exact ⟨h.1.1, h.1.2, h.2⟩

theorem witness_DecodeOfEncode :
    (Instr.wbWrRomb1 0x3FFF 0xFF).wf = true ∧ (Instr.wbWrRomb1 0x3FFF 0xFF).appliesIn (.wideBank false) = true := by decide

theorem witness_EncodeOfDecode : decode (.wideClock .rtc) 0x1BFFFFF = .ok (.wcWrRtc 0xBFFF 0xFF) := by decide

def requestOf (w : OpWord) (tr : Transfer) : Request := { conRequest 0x10 .absent with word := w, transfer := tr }

/-- One word for each clause: a reserved kind, a `READ` with a datum, a `TICK` with an address, a `CONSTRUCT` with a datum. -/
theorem witness_WordsThatAreNoOperation :
    (5 ≤ (kindField 0x5000000).toNat) ∧ ((kindField 0x0400001).toNat = 0 ∧ datumField 0x0400001 ≠ 0) ∧
    (2 ≤ (kindField 0x2000100).toNat ∧ (kindField 0x2000100).toNat ≤ 4 ∧ addrField 0x2000100 ≠ 0) ∧
    (2 ≤ (kindField 0x4000001).toNat ∧ (kindField 0x4000001).toNat ≤ 4 ∧ datumField 0x4000001 ≠ 0) ∧
    ({ romOnlyState with pending := [requestOf 0x5000000 .complete] } : State).pending =
      requestOf 0x5000000 .complete :: [] := by decide

theorem witness_RegionSplit : regionOf 0x2FFF = .b ∧ regionOf 0x3000 = .b := by decide

theorem witness_StepRuns :
    ({ linearState true with pending := [requestOf 0x0A00000 .complete] } : State).pending =
      requestOf 0x0A00000 .complete :: [] ∧
    decode (linearState true).mode (requestOf 0x0A00000 .complete).word = .ok (.linRdRam 0xA000) ∧
    decode (linearState true).mode (BitVec.ofNat 27 (0x1BFFFFF % 2 ^ 32)) = .ok (.linWrRam 0xBFFF 0xFF) := by decide

theorem witness_FaultEntry : nextOf State.phase (exec (.wcRdRam 0xA000) (clockState true 2)) =
    some (.faulted (.ramIndex 0x4000)) := by decide

theorem witness_OnlyConstructLeaves :
    ({ linearState true with phase := .finalized } : State).phase ≠ .live ∧ Instr.linTick ≠ .con := by decide

theorem witness_FixedBank : accepts romOnlyState (.roRdRom0 0x3FFF) = true ∧ accepts (linearState true) (.linRdRom0 0) = true ∧
    accepts (clockState false 0) (.wcRdRom0 0x3FFF) = true ∧ accepts (wideBankState false) (.wbRdRom0 0) = true ∧
    (0x3FFF#16).toNat < romOnlyState.cfg.img.size := by decide

/-- The clause past the image: an image of 256 bytes (no `CON` builds one). -/
theorem witness_FixedBank_past :
    accepts { romOnlyState with cfg := { romOnlyState.cfg with img := Memory.zeros 256 } } (.roRdRom0 0x0100) = true ∧
    ({ romOnlyState.cfg with img := Memory.zeros 256 } : CartConfig).img.size ≤ (0x0100#16).toNat := by decide

theorem witness_Outside : accepts romOnlyState (.roRdExt 0x8000) = true ∧ accepts (linearState true) (.linRdExt 0x9FFF) = true ∧
    accepts (clockState true 8) (.wcRdExt 0xC000) = true ∧ accepts (wideBankState true) (.wbRdExt 0xFFFF) = true ∧
    accepts romOnlyState (.roWrExt 0x8000 1) = true ∧ accepts (linearState true) (.linWrExt 0x9FFF 1) = true ∧
    accepts (clockState true 8) (.wcWrExt 0xC000 1) = true ∧ accepts (wideBankState true) (.wbWrExt 0xFFFF 1) = true := by decide

theorem witness_TickWithoutAClock : accepts romOnlyState .roTick = true ∧ accepts (linearState true) .linTick = true ∧
    accepts (wideBankState true) .wbTick = true := by decide

theorem witness_Finalize : (linearState true).phase = .live := by decide

/-- The highest offset inside and the first one past the image of 64 KiB. -/
theorem witness_Switchable : accepts romOnlyState (.roRdRomx 0x7FFF) = true ∧
    accepts (linearState true) (.linRdRomx 0x4000) = true ∧ accepts (clockState true 8) (.wcRdRomx 0x7FFF) = true ∧
    accepts (wideBankState true) (.wbRdRomx 0x7FFF) = true ∧
    3 * 16384 + ((0x7FFF#16).toNat - 0x4000) < image.size ∧ image.size ≤ 4 * 16384 + ((0x4000#16).toNat - 0x4000) := by decide

theorem witness_EffectiveBank : ((2 : BitVec 2) = 0 ∨ (2 : BitVec 2) = 2) ∧ ((0 : BitVec 1) = 0) ∧ ((1 : BitVec 1) = 1) := by
  decide

theorem witness_RomOnly : accepts romOnlyState (.roWrRom 0x7FFF 1) = true ∧ accepts romOnlyState (.roRdWin 0xA000) = true ∧
    accepts romOnlyState (.roWrWin 0xBFFF 1) = true := by decide

theorem witness_LinearRegisters : accepts (linearState false) (.linWrRomb 0x3FFF 0) = true ∧
    accepts (linearState true) (.linWrBanksel 0x4000 0xFF) = true ∧
    accepts (linearState true) (.linWrMode 0x7FFF 0) = true := by decide

/-- A rising edge, a falling edge, and no edge, each with a store. -/
theorem witness_LinearEnable : accepts (linearState false) (.linWrRamen 0x1FFF 0x0A) = true ∧
    accepts (linearState true) (.linWrRamen 0x0000 0x0B) = true ∧ accepts (linearState true) (.linWrRamen 0 0xFA) = true ∧
    (linearState false).port.transfer = .complete ∧ (linearState false).store.isSome = true ∧
    (linearState false).lin.ramEnabled = false ∧ (0x0A#8).toNat % 16 = 10 ∧ (0x0B#8).toNat % 16 ≠ 10 ∧
    (0xFA#8).toNat % 16 = 10 ∧ (Transfer.onlyFirst 16384).covers (linearState true).cfg.ramSize = true := by decide

/-- The highest address, and with 2 KiB of RAM the first offset past it. -/
theorem witness_LinearRam : accepts (linearState true) (.linRdRam 0xBFFF) = true ∧
    accepts (linearState true) (.linWrRam 0xBFFF 1) = true ∧ (0xBFFF#16).toNat - 0xA000 < (linearState true).cfg.ramSize ∧
    (linearState true).ram.size = (linearState true).cfg.ramSize ∧ (linearState true).ram.wf = true ∧
    2048 ≤ (0xA800#16).toNat - 0xA000 := by decide

theorem witness_Disabled : accepts (linearState false) (.linRdRamoff 0xA000) = true ∧
    accepts (clockState false 8) (.wcRdOff 0xBFFF) = true ∧ accepts (linearState false) (.linWrRamoff 0xA000 1) = true ∧
    accepts (clockState false 8) (.wcWrOff 0xBFFF 1) = true ∧ accepts (wideBankState false) (.wbRdRamoff 0xA000) = true ∧
    accepts (wideBankState false) (.wbWrRamoff 0xBFFF 1) = true := by decide

theorem witness_WideClockRegisters : accepts (clockState true 8) (.wcWrEn 0x1FFF 0) = true ∧
    accepts (clockState true 8) (.wcWrRomb 0x2000 0) = true ∧ accepts (clockState true 8) (.wcWrSel 0x5FFF 0) = true := by decide

/-- Both ends of every range of selectors. -/
theorem witness_WindowDecode : (clockState true 0).cfg.variant = .wideClock ∧ regionOf 0xA000 = .w ∧ regionOf 0xBFFF = .w ∧
    (clockState false 3).mode = .wideClock .off ∧
    [0x00, 0x03].map (fun v => (clockState true v).mode) = [.wideClock .ram, .wideClock .ram] ∧
    [0x08, 0x0C].map (fun v => (clockState true v).mode) = [.wideClock .rtc, .wideClock .rtc] ∧
    [0x04, 0x07, 0x0D, 0xFF].map (fun v => (clockState true v).mode) =
      [.wideClock .badSel, .wideClock .badSel, .wideClock .badSel, .wideClock .badSel] := by decide

/-- Selector 1, the last byte of the RAM; selector 2, past it. -/
theorem witness_WideClockRam : accepts (clockState true 1) (.wcRdRam 0xBFFF) = true ∧
    accepts (clockState true 1) (.wcWrRam 0xBFFF 1) = true ∧
    (clockState true 1).wc.ramBankOrRtcRegister.toNat * 8192 + ((0xBFFF#16).toNat - 0xA000) < (clockState true 1).cfg.ramSize ∧
    accepts (clockState true 2) (.wcRdRam 0xA000) = true ∧ accepts (clockState true 2) (.wcWrRam 0xA000 1) = true ∧
    (clockState true 2).cfg.ramSize ≤ (clockState true 2).wc.ramBankOrRtcRegister.toNat * 8192 + ((0xA000#16).toNat - 0xA000) ∧
    invCheck (clockState true 1) = true ∧ (clockState true 1).port.transfer.covers 1 = true ∧
    (Transfer.onlyFirst 1).covers 1 = true := by decide

theorem witness_BadSelector : accepts (clockState true 4) (.wcRdBadsel 0xA000) = true ∧
    accepts (clockState true 0xFF) (.wcWrBadsel 0xBFFF 1) = true := by decide

theorem witness_Latch : accepts (clockState false 0) (.wcWrLatch 0x6000 1) = true := by decide

theorem witness_RtcRead : accepts (clockState true 8) (.wcRdRtc 0xA000) = true ∧
    accepts (clockState true 0x0C) (.wcRdRtc 0xBFFF) = true := by decide

/-- The largest accepted datum of each register. -/
theorem witness_RtcWrite : accepts (clockState true 0x08) (.wcWrRtc 0xA000 59) = true ∧
    accepts (clockState true 0x0A) (.wcWrRtc 0xA000 23) = true ∧ accepts (clockState true 0x0C) (.wcWrRtc 0xA000 0xFF) = true ∧
    (59#8).toNat < 60 ∧ (23#8).toNat < 24 ∧ invCheck (clockState true 0x08) = true ∧ invCheck (clockState true 0x0A) = true ∧
    invCheck (clockState true 0x0C) = true ∧ (clockState true 0x08).port.transfer.covers 22 = true ∧
    (Transfer.onlyFirst 22).covers 22 = true := by decide

/-- The smallest rejected datum of each register that rejects. -/
theorem witness_RtcWriteRejected : accepts (clockState true 0x09) (.wcWrRtc 0xA000 60) = true ∧
    (clockState true 0x09).wc.ramBankOrRtcRegister.toNat ≤ 0x09 ∧ 60 ≤ (60#8).toNat ∧
    accepts (clockState true 0x0A) (.wcWrRtc 0xA000 24) = true ∧
    (clockState true 0x0A).wc.ramBankOrRtcRegister.toNat = 0x0A ∧ 24 ≤ (24#8).toNat := by decide

def haltedState : State :=
  { clockState true 8 with rtc := { (clockState true 8).rtc with live := ⟨5, 0, 0, 0, 0x40⟩ } }

theorem witness_HaltedTick : accepts haltedState .wcTick = true ∧ haltedState.rtc.live.dayHigh.getLsbD 6 = true ∧
    haltedState.rtc.cycleCounter.toNat + haltedState.port.cyclesElapsed.toNat < 2 ^ 32 ∧ invCheck haltedState = true := by decide

/-- A running clock: 30 + 100 cycles reach 100, 30 + 69 do not. -/
theorem witness_Tick : accepts (clockState true 8) .wcTick = true ∧ invCheck (clockState true 8) = true ∧
    (clockState true 8).port.transfer.covers 22 = true ∧ (clockState true 8).rtc.live.dayHigh.getLsbD 6 = false ∧
    (clockState true 8).params.tickFreq ≤ (30 + 100) % 2 ^ 32 ∧ (30 + 69) % 2 ^ 32 < (clockState true 8).params.tickFreq ∧
    (clockState true 8).rtc.cycleCounter.toNat = 30 ∧ (clockState true 8).port.cyclesElapsed.toNat = 100 := by decide

/-- Both sides of each wrap. -/
theorem witness_Cascade : (58#8).toNat < 59 ∧ (59#8).toNat = 59 ∧ (22#8).toNat < 23 ∧ (23#8).toNat = 23 := by decide

theorem witness_FileInRange : (clockState true 8).rtc.live.inRange = true := by decide

theorem witness_WideBankRegisters : accepts (wideBankState false) (.wbWrRamen 0x1FFF 0x0A) = true ∧
    accepts (wideBankState false) (.wbWrRomb0 0x2FFF 0) = true ∧ accepts (wideBankState false) (.wbWrRomb1 0x3000 1) = true ∧
    accepts (wideBankState false) (.wbWrNop 0x6000 1) = true := by decide

theorem witness_WideBankRamBank : accepts (wideBankState false) (.wbWrRamb 0x5FFF 0x0F) = true ∧ (0x0F#8).toNat ≤ 0x0F ∧
    accepts (wideBankState false) (.wbWrRamb 0x4000 0x10) = true ∧ 0x0F < (0x10#8).toNat := by decide

def wideBankPast : State := { wideBankState true with wb := { (wideBankState true).wb with ramBank := 2 } }

/-- Bank 0 inside the RAM, bank 2 past it. -/
theorem witness_WideBankRam : accepts (wideBankState true) (.wbRdRam 0xBFFF) = true ∧
    accepts (wideBankState true) (.wbWrRam 0xBFFF 1) = true ∧
    (wideBankState true).wb.ramBank.toNat * 8192 + ((0xBFFF#16).toNat - 0xA000) < (wideBankState true).cfg.ramSize ∧
    invCheck (wideBankState true) = true ∧ (wideBankState true).port.transfer.covers 1 = true ∧
    accepts wideBankPast (.wbRdRam 0xA000) = true ∧ accepts wideBankPast (.wbWrRam 0xA000 1) = true ∧
    wideBankPast.cfg.ramSize ≤ wideBankPast.wb.ramBank.toNat * 8192 + ((0xA000#16).toNat - 0xA000) := by decide

theorem witness_UnsupportedType :
    ∀ e ∈ (conState 0x05 .absent).params.typeTable, e.1 ≠ (conState 0x05 .absent).port.con.cartridgeType := by decide

/-- Every variant, attached or not. -/
theorem witness_ConstructWithoutFile : invCheck (conState 0x10 .absent) = true ∧
    (conState 0x10 .absent).port.con.openTransfer.covers 38 = true ∧ (conState 0x10 .absent).port.transfer.covers 22 = true ∧
    [0x00, 0x01, 0x03, 0x10, 0x12, 0x1B].map (typeOf (conState 0x10 .absent).params.typeTable) =
      [some ⟨.romOnly, false, false, false⟩, some ⟨.linearBank, false, false, false⟩, some ⟨.linearBank, true, true, false⟩,
       some ⟨.wideClock, true, true, true⟩, some ⟨.wideClock, true, false, false⟩, some ⟨.wideBank, true, true, false⟩] ∧
    (conState 0x10 .absent).port.con.img.size % 16384 = 0 ∧ 16384 ≤ (conState 0x10 .absent).port.con.img.size ∧
    (conState 0x10 .absent).port.con.file0 = .absent := by decide

/-- A cartridge without battery that is given a file, of a size that would be refused with a battery. -/
theorem witness_ConstructIgnoresTheFile : invCheck (conState 0x01 (.bytes (Memory.zeros 7))) = true ∧
    ((⟨.linearBank, false, false, false⟩ : CartType).hasBattery && decide (Variant.linearBank ≠ .romOnly)) = false ∧
    typeOf (conState 0x01 .absent).params.typeTable (conState 0x01 .absent).port.con.cartridgeType =
      some ⟨.linearBank, false, false, false⟩ := by decide

theorem witness_ConstructLoads : invCheck (conState 0x10 (.bytes clockFile)) = true ∧
    (conState 0x10 .absent).port.con.openTransfer.covers clockFile.size = true ∧
    (conState 0x10 .absent).port.transfer.covers 22 = true ∧
    typeOf (conState 0x10 .absent).params.typeTable 0x10 = some ⟨.wideClock, true, true, true⟩ ∧
    typeOf (conState 0x10 .absent).params.typeTable 0x13 = some ⟨.wideClock, true, true, false⟩ ∧
    clockFile.size = (conState 0x10 .absent).port.con.ramSizeBytes + 22 ∧ (rtcAt clockFile 16).inRange = true ∧
    (rtcAt clockFile 16).live.dayHigh.getLsbD 6 = false ∧
    (rtcAt clockFile 16).lastSave.toNat ≤ (conState 0x10 .absent).port.now.toNat := by decide

/-- The same file, left behind by the instance before. -/
def leftBehindState : State :=
  { base .wideClock true (some clockFile) with
    cfg := { (base .wideClock true none).cfg with ramSize := 16 }
    ram := Memory.zeros 16
    port := conRequest 0x10 .leftBehind }

theorem witness_ConstructLoadsLeftBehind : invCheck leftBehindState = true ∧
    leftBehindState.port.con.file0 = .leftBehind ∧ leftBehindState.store = some clockFile ∧
    nextOf (fun t => t.ram.size) (exec .con leftBehindState) = some 16 := by decide +kernel

theorem witness_ConstructLoadsPlain : invCheck (conState 0x03 (.bytes (Memory.zeros 16))) = true ∧
    typeOf (conState 0x03 .absent).params.typeTable 0x03 = some ⟨.linearBank, true, true, false⟩ ∧
    typeOf (conState 0x03 .absent).params.typeTable 0x1B = some ⟨.wideBank, true, true, false⟩ ∧
    (Memory.zeros 16).size = (conState 0x03 .absent).port.con.ramSizeBytes ∧
    (conState 0x03 .absent).port.con.openTransfer.covers (Memory.zeros 16).size = true := by decide

/-- A file whose block has 60 seconds. -/
def badFile : Memory := { size := 38, cells := [(16, 60)] }

/-- A short file, a file with 60 seconds, a clock one second before the file's, and images of no whole bank. With a whole load the
file itself is what is loaded. -/
theorem witness_ConstructRefuses : (Memory.zeros 37).size ≠ (conState 0x10 .absent).port.con.ramSizeBytes + 22 ∧
    invCheck (conState 0x10 (.bytes badFile)) = true ∧ (rtcAt badFile 16).inRange = false ∧
    (rtcAt clockFile 16).inRange = true ∧
    (999#64).toNat < (rtcAt clockFile 16).lastSave.toNat ∧ (Memory.zeros 16383).size < 16384 ∧
    (Memory.zeros 16385).size % 16384 ≠ 0 ∧
    (∀ k : Nat, k < badFile.size → k < (conState 0x10 .absent).port.con.openTransfer.moved badFile.size) := by
  refine ⟨by decide, by decide, by decide, by decide, by decide, by decide, by decide, fun _ h => h⟩

theorem witness_ResetConstruction : State.reset.params = Config.defaultParams ∧ State.reset.port = State.resetRequest ∧
    State.reset.pending = [] := ⟨rfl, rfl, rfl⟩

theorem witness_LeftBehind :
    nextOf State.phase (exec .con
      { linearState false with port := conRequest 0x01 (.bytes { size := 16384, cells := [(0, 0x42)] }) }) = some .live ∧
    ({ linearState false with port := conRequest 0x01 .leftBehind } : State).port.con.file0 = .leftBehind ∧
    (linearState false).store = some { size := 16384, cells := [(0, 0x42)] } := by decide

/-- A store left behind that no cartridge of this type takes. -/
theorem witness_LeftBehind_refused :
    exec .con { linearState false with port := conRequest 0x03 (.bytes { size := 16384, cells := [(0, 0x42)] }) } =
      .refused .saveFileSize ∧
    ({ linearState false with port := conRequest 0x03 .leftBehind } : State).port.con.file0 = .leftBehind := ⟨rfl, rfl⟩

theorem witness_RtcBlock : (Memory.zeros 38).wf = true ∧ 16 + 22 ≤ (Memory.zeros 38).size := by decide

/-- A step that keeps the invariant and the agreement, from a state that has both. -/
theorem witness_StepInvariant :
    invCheck { wideBankState true with pending := [requestOf 0x1A00099 .complete] } = true ∧
    ((after State.phase 0x1A00099 (wideBankState true)) = some .live) ∧
    (requestOf 0x1A00099 .complete).transfer = .complete ∧
    (requestOf 0x1A00099 .complete).con.openTransfer = .complete := by decide

theorem witness_StoreClockInRange : (clockState true 8).StoreClockInRange ∧
    (requestOf 0x4000000 .complete).word = encode .con ∧ (requestOf 0x4000000 .complete).con.openTransfer = .complete := by
  refine ⟨?_, by decide, by decide⟩
  rintro - st hst
  cases hst
  decide

theorem witness_Mirrored : (wideBankState true).Mirrored := by
  rintro - st hst k -
  cases hst
  rfl

theorem witness_ExecNext : nextOf State.phase (exec .linTick (linearState true)) = some .live ∧ Instr.linTick ≠ .con := by
  decide

theorem witness_DisabledWindow : windowDisabled (linearState false).mode = true ∧
    nextOf State.phase (exec (.linWrRamen 0 0x0A) (linearState false)) = some .live := by decide

theorem witness_Reads : isRead (.wcRdRtc 0xA000) = true ∧
    nextOf State.phase (exec (.wcRdRtc 0xA000) (clockState true 8)) = some .live := by decide

def carryState : State :=
  { clockState true 0x0B with rtc := { (clockState true 0x0B).rtc with live := ⟨59, 59, 23, 0xFF, 0x81⟩ } }

theorem witness_DayCarry : carryState.rtc.live.dayCarry = true ∧ Instr.wcTick ≠ .con ∧
    (Instr.wcWrRtc 0xA000 1).mnemonic = "WC.WR.RTC" ∧ carryState.wc.ramBankOrRtcRegister ≠ 0x0C ∧
    nextOf State.phase (exec (.wcWrRtc 0xA000 1) carryState) = some .live := by decide

/-- The state with transfers that move only `n` bytes. -/
def short (n : Nat) (s : State) : State := { s with port := { s.port with transfer := .onlyFirst n } }

theorem witness_PartialCopy : invCheck (short 0 (clockState true 1)) = true ∧
    accepts (short 0 (clockState true 1)) (.wcWrRam 0xBFFF 1) = true ∧ invCheck (short 0 (wideBankState true)) = true ∧
    accepts (short 0 (wideBankState true)) (.wbWrRam 0xA000 1) = true ∧ invCheck (short 16383 (linearState true)) = true ∧
    accepts (short 16383 (linearState true)) (.linWrRamen 0 0) = true ∧
    accepts (short 16383 (linearState false)) (.linWrRamen 0 0x0A) = true ∧
    invCheck (short 16383 (linearState false)) = true ∧ 16383 < (linearState true).cfg.ramSize ∧
    (short 0 (clockState true 1)).store.isSome = true := by decide

theorem witness_PartialPersist : invCheck (short 21 (clockState true 8)) = true ∧
    accepts (short 21 (clockState true 8)) (.wcWrRtc 0xA000 59) = true ∧
    accepts (short 21 (clockState true 8)) .wcTick = true ∧ (short 21 (clockState true 8)).store.isSome = true ∧
    (short 21 (clockState true 8)).params.tickFreq ≤ (30 + 100) % 2 ^ 32 := by decide

/-- `CON` with both transfers short: the load stops inside the block of the file, the persist after 5 bytes. -/
def shortConState : State := short 5 (shortOpen 20 (conState 0x10 (.bytes clockFile)))

/-- What that load gives: the file's bytes below 20, behind them the snapshot's, whose timestamp is 4661 (0x1235). -/
def shortImage : Memory :=
  { size := 38, cells := [(16, 10), (17, 20), (18, 5), (19, 3), (30, 0x35), (31, 0x12)] }

theorem witness_PartialConstruct : invCheck shortConState = true ∧
    typeOf shortConState.params.typeTable shortConState.port.con.cartridgeType = some ⟨.wideClock, true, true, true⟩ ∧
    (∀ k, k < 38 → shortImage.read k =
      if k < shortConState.port.con.openTransfer.moved 38 then clockFile.read k
      else if k < 16 then Memory.lookup shortConState.params.ramInit k
      else (rtcBlock (Rtc.reset shortConState.port.now)).getD (k - 16) 0) ∧
    (rtcAt shortImage 16).inRange = true ∧ (rtcAt shortImage 16).lastSave.toNat ≤ shortConState.port.now.toNat ∧
    nextOf State.log (exec .con shortConState) = some [.partialIo, .partialIo] := by decide +kernel

end Sys2Proof.Tests
end

/-! SUPPORT. What an operation keeps of the configuration, the parameters and the inputs (00_scope.md R9, R10, 20_memory.md R71):
the procedures of the model keep them one by one, `CON` alone replaces the configuration. -/

namespace Sys2Proof.Machine

/-! ### Properties of the state an operation ends in -/

/-- Every next state the outcome can be has the property. -/
def EndsIn (P : State → Prop) (o : Out) : Prop := ∀ t, o = .next t → P t

section EndsIn

variable {P : State → Prop} {s : State}

theorem endsIn_complete {r : Result} (h : P (s.setResult r)) : EndsIn P (complete r s) := by
  rintro _ ⟨⟩
  exact h

theorem endsIn_raise {f : Fault} (h : P ((s.setPhase (.faulted f)).setResult (.fault f))) : EndsIn P (raise f s) := by
  rintro _ ⟨⟩
  exact h

theorem endsIn_whenRow {i : Instr} {m : Out} (h : EndsIn P m) : EndsIn P (whenRow i s m) :=
  fun t ht => h t (whenRow_next ht).2

theorem endsIn_withRtcReg {m : RtcReg → Out} (h : ∀ r, EndsIn P (m r)) : EndsIn P (withRtcReg s m) := by
  intro t ht
  obtain ⟨r, -, hr⟩ := withRtcReg_next ht
  exact h r t hr

theorem endsIn_readImage {off : Nat} (hok : ∀ r, P (s.setResult r))
    (hfault : ∀ f, P ((s.setPhase (.faulted f)).setResult (.fault f))) : EndsIn P (readImage off s) := by
  unfold readImage
  split
  · exact endsIn_complete (hok _)
  · exact endsIn_raise (hfault _)

theorem endsIn_readRam {off : Nat} (hok : ∀ r, P (s.setResult r))
    (hfault : ∀ f, P ((s.setPhase (.faulted f)).setResult (.fault f))) : EndsIn P (readRam off s) := by
  unfold readRam
  split
  · exact endsIn_complete (hok _)
  · exact endsIn_raise (hfault _)

theorem endsIn_writeRam {off : Nat} {d : Byte} {mirror : State → State}
    (hok : P ((mirror (putRam off d s)).setResult .done))
    (hfault : ∀ f, P ((s.setPhase (.faulted f)).setResult (.fault f))) : EndsIn P (writeRam off d mirror s) := by
  unfold writeRam
  split
  · exact endsIn_complete hok
  · exact endsIn_raise (hfault _)

end EndsIn

/-! ### The setup of an instance -/

/-- What the operations of an instance only read: the parameters, the request at the port, the queue and the configuration. -/
def State.setup (s : State) : Params × Request × List Request × CartConfig := (s.params, s.port, s.pending, s.cfg)

theorem State.setup_eq_iff {s t : State} :
    t.setup = s.setup ↔ t.params = s.params ∧ t.port = s.port ∧ t.pending = s.pending ∧ t.cfg = s.cfg := by
  simp [State.setup]

@[simp] theorem setup_setRtc (s : State) (x : Rtc) : (s.setRtc x).setup = s.setup := rfl
@[simp] theorem setup_setRam (s : State) (x : Memory) : (s.setRam x).setup = s.setup := rfl
@[simp] theorem setup_setWc (s : State) (x : WideClockRegs) : (s.setWc x).setup = s.setup := rfl
@[simp] theorem setup_setLin (s : State) (x : LinearRegs) : (s.setLin x).setup = s.setup := rfl
@[simp] theorem setup_setResult (s : State) (x : Result) : (s.setResult x).setup = s.setup := rfl

@[simp] theorem setup_mirrorByte (off : Nat) (d : Byte) (s : State) : (mirrorByte off d s).setup = s.setup := by
  obtain ⟨-, h⟩ | ⟨st, -, ⟨-, h⟩ | ⟨-, h⟩⟩ := mirrorByte_cases off d s <;> simp [State.setup, h]

@[simp] theorem setup_loadRam (s : State) : (loadRam s).setup = s.setup := by
  obtain ⟨-, h⟩ | ⟨st, log, -, -, -, h⟩ := loadRam_cases s <;> simp [State.setup, h]

@[simp] theorem setup_saveRam (s : State) : (saveRam s).setup = s.setup := by
  obtain ⟨-, h⟩ | ⟨st, log, -, -, -, h⟩ := saveRam_cases s <;> simp [State.setup, h]

@[simp] theorem setup_persistRtcBlock (now : Time) (s : State) : (persistRtcBlock now s).setup = s.setup := by
  obtain ⟨-, h⟩ | ⟨st, log, -, -, -, h⟩ := persistRtcBlock_cases now s <;> simp [State.setup, h]

@[simp] theorem setup_openStore (s : State) : (openStore s).setup = s.setup := by
  obtain ⟨-, h⟩ | ⟨-, log, -, ⟨-, h⟩ | ⟨f, -, h⟩⟩ := openStore_cases s <;> simp [State.setup, h]

@[simp] theorem setup_linearEdge (new : Bool) (s : State) : (linearEdge new s).setup = s.setup := by
  unfold linearEdge
  split <;> split <;> simp

@[simp] theorem setup_latchCopy (d : Byte) (s : State) : (latchCopy d s).setup = s.setup := by
  unfold latchCopy
  split <;> simp

@[simp] theorem setup_accumulate (s : State) : (accumulate s).setup = s.setup := rfl

@[simp] theorem setup_reduceCounter (s : State) : (reduceCounter s).setup = s.setup := rfl

@[simp] theorem setup_emitSecond (s : State) : (emitSecond s).setup = s.setup := by
  simp only [emitSecond]
  split <;> simp

@[simp] theorem setup_writeRtc (r : RtcReg) (d : Byte) (s : State) : (writeRtc r d s).setup = s.setup := by
  simp [writeRtc]

@[simp] theorem setup_fastForwardIfClocked (s : State) : (fastForwardIfClocked s).setup = s.setup := by
  unfold fastForwardIfClocked
  split <;> simp [fastForward]

/-- The offset stays a variable here: with a concrete one the kernel would compute where the byte is placed. -/
theorem writeRam_keeps_setup {off : Nat} {d : Byte} {mirror : State → State} {s : State}
    (h : ∀ u, (mirror u).setup = u.setup) : EndsIn (fun t => t.setup = s.setup) (writeRam off d mirror s) :=
  endsIn_writeRam (h (putRam off d s)) fun _ => rfl

/-- Every operation but `CON` keeps the setup. -/
theorem exec_keeps_setup {i : Instr} (hi : i ≠ .con) (s : State) : EndsIn (fun t => t.setup = s.setup) (exec i s) := by
  cases i with
  | con => exact absurd rfl hi
  | fin | roTick | linTick | wbTick | roWrRom | wbWrNop
  | roRdWin | linRdRamoff | wcRdOff | wbRdRamoff | roWrWin | linWrRamoff | wcWrOff | wbWrRamoff
  | roRdExt | linRdExt | wcRdExt | wbRdExt | roWrExt | linWrExt | wcWrExt | wbWrExt | wcRdBadsel | wcWrBadsel
  | linWrRomb | linWrBanksel | linWrMode | wcWrEn | wcWrRomb | wcWrSel
  | wbWrRamen | wbWrRomb0 | wbWrRomb1 | wbWrRamb => exact endsIn_whenRow (endsIn_complete rfl)
  | roRdRom0 | roRdRomx | linRdRom0 | linRdRomx | wcRdRom0 | wcRdRomx | wbRdRom0 | wbRdRomx =>
    exact endsIn_whenRow (endsIn_readImage (fun _ => rfl) fun _ => rfl)
  | linRdRam | wcRdRam | wbRdRam => exact endsIn_whenRow (endsIn_readRam (fun _ => rfl) fun _ => rfl)
  | linWrRam => exact endsIn_whenRow (writeRam_keeps_setup fun _ => rfl)
  | wcWrRam | wbWrRam => exact endsIn_whenRow (writeRam_keeps_setup fun _ => setup_mirrorByte _ _ _)
  | linWrRamen => exact endsIn_whenRow (endsIn_complete (by simp))
  | wcWrLatch => exact endsIn_whenRow (endsIn_complete (by simp))
  | wcRdRtc => exact endsIn_whenRow (endsIn_withRtcReg fun _ => endsIn_complete rfl)
  | wcWrRtc => exact endsIn_whenRow (endsIn_withRtcReg fun _ => endsIn_complete (by split <;> simp))
  | wcTick => exact endsIn_whenRow (endsIn_complete (by split <;> simp))

/-- `CON` builds the instance on the parameters, the request and the queue it finds (40_dispatch_romonly.md R132). -/
theorem execCon_keeps_inputs (s : State) :
    EndsIn (fun t => t.params = s.params ∧ t.port = s.port ∧ t.pending = s.pending) (execCon s) := by
  unfold execCon
  split
  · exact endsIn_raise ⟨rfl, rfl, rfl⟩
  · next ct _ =>
    split
    · rintro _ ⟨⟩
    · have hbuilt : (fastForwardIfClocked (openStore (resetInstance ct s))).setup = (resetInstance ct s).setup := by simp
      obtain ⟨hparams, hport, hpending, -⟩ := State.setup_eq_iff.1 hbuilt
      exact endsIn_complete ⟨hparams, hport, hpending⟩

/-- Settles O50: no operation but `CON` touches the setup, and what `CON` replaces of it is the configuration alone. -/
theorem onlyConstructChangesTheConfiguration : Obligations.OnlyConstructChangesTheConfiguration := by
  unfold Obligations.OnlyConstructChangesTheConfiguration
  intro i s t h
  by_cases hi : i = .con
  · subst hi
    obtain ⟨hparams, hport, hpending⟩ := execCon_keeps_inputs s t h
    exact ⟨hparams, hport, hpending, fun hne => absurd rfl hne⟩
  · obtain ⟨hparams, hport, hpending, hcfg⟩ := State.setup_eq_iff.1 (exec_keeps_setup hi s t h)
    exact ⟨hparams, hport, hpending, fun _ => hcfg⟩

end Sys2Proof.Machine

/-! SUPPORT. What the operations can move of the state (10_state.md): one day forward on the day counter and the day-carry (R30,
R36), and the eight operations that reach the RAM, the store or the RTC, of which a window access is none while the window is
disabled (R43). -/

namespace Sys2Proof.Machine

/-! ### One step -/

/-- Settles O7: both parts are the step's definition, the second with the request that `withFetchWord` queues. -/
theorem stepRunsTheDecodedOperation : Obligations.StepRunsTheDecodedOperation := by
  unfold Obligations.StepRunsTheDecodedOperation
  have hstep : ∀ (s : State) (r : Request) (rest : List Request) (i : Instr),
      s.pending = r :: rest → decode s.mode r.word = .ok i →
        step s = exec i { s with port := r, pending := rest } := by
    intro s r rest i hpending hdecode
    simp only [step, hpending, hdecode]
    rfl
  exact ⟨hstep, fun s nbits w i hdecode => hstep (s.withFetchWord nbits w) _ _ i rfl hdecode⟩

/-! ### The day counter -/

/-- The day is bit 0 of day-high above day-low (10_state.md R30). -/
theorem RtcFile.day_eq (f : RtcFile) : f.day = 256 * (f.dayHigh &&& 0x01).toNat + f.dayLow.toNat := by
  unfold RtcFile.day
  rw [← Nat.shiftLeft_add_eq_or_of_lt f.dayLow.isLt, Nat.shiftLeft_eq, Nat.mul_comm]

theorem RtcFile.day_lt (f : RtcFile) : f.day < 512 := by
  have hhigh : (f.dayHigh &&& 0x01).toNat ≤ 1 := by
    rw [BitVec.toNat_and]
    exact Nat.and_le_right
  have hlow := f.dayLow.isLt
  have hday := f.day_eq
  omega

/-! ### One day forward -/

/-- A byte with another bit 0: the low bit is the new one, bits 1 to 7 are the old ones. -/
theorem withBit0_and_one (v : Byte) {b : Nat} (hb : b < 2) :
    ((v &&& 0xFE) ||| BitVec.ofNat 8 b) &&& 0x01 = BitVec.ofNat 8 b := by
  interval_cases b <;> revert v <;> decide

theorem getLsbD_withBit0 (v : Byte) {b k : Nat} (hb : b < 2) (hk : 1 ≤ k) (hk7 : k ≤ 7) :
    ((v &&& 0xFE) ||| BitVec.ofNat 8 b).getLsbD k = v.getLsbD k := by
  have hbit : b.testBit k = false := Nat.testBit_lt_two_pow (hb.trans_le (Nat.le_self_pow (by omega) 2))
  have hmask : (0xFE : Byte).getLsbD k = true := by
    interval_cases k <;> rfl
  rw [BitVec.getLsbD_or, BitVec.getLsbD_and, BitVec.getLsbD_ofNat, hbit, hmask]
  simp

/-- `AdvanceDay()` on the number the day counter holds: its next value modulo 512 is put back into the nine bits. -/
theorem advanceDay_eq (f : RtcFile) :
    advanceDay f =
      { f with
        dayLow := BitVec.ofNat 8 ((f.day + 1) % 512)
        dayHigh :=
          ((if f.day = 511 then f.dayHigh ||| 0x80 else f.dayHigh) &&& 0xFE) |||
            BitVec.ofNat 8 ((f.day + 1) % 512 / 256) } := by
  have hlt := f.day_lt
  by_cases h : f.day = 511
  · simp [advanceDay, h]
  · have hmod : (f.day + 1) % 512 = f.day + 1 := Nat.mod_eq_of_lt (by omega)
    simp [advanceDay, h, hmod, Nat.shiftRight_eq_div_pow]

theorem advanceDay_day (f : RtcFile) : (advanceDay f).day = (f.day + 1) % 512 := by
  have hbit : (f.day + 1) % 512 / 256 < 2 := by omega
  rw [RtcFile.day_eq, advanceDay_eq]
  simp only [withBit0_and_one _ hbit, BitVec.toNat_ofNat]
  omega

/-- Of bits 1 to 7 of day-high only the day-carry can change, and it is only ever set (43_rtc.md R221, decision D14). -/
theorem advanceDay_getLsbD (f : RtcFile) {k : Nat} (hk : 1 ≤ k) (hk7 : k ≤ 7) :
    (advanceDay f).dayHigh.getLsbD k = (f.dayHigh.getLsbD k || (decide (f.day = 511) && decide (k = 7))) := by
  have hbit : (f.day + 1) % 512 / 256 < 2 := by omega
  rw [advanceDay_eq]
  simp only [getLsbD_withBit0 _ hbit hk hk7]
  split
  · next h =>
    have hmask : (0x80 : Byte).getLsbD k = decide (k = 7) := by
      interval_cases k <;> rfl
    rw [BitVec.getLsbD_or, hmask]
    simp [h]
  · next h => simp [h]

theorem advanceDay_dayCarry (f : RtcFile) : (advanceDay f).dayCarry = (f.dayCarry || decide (f.day = 511)) :=
  (advanceDay_getLsbD f (by decide) (Nat.le_refl 7)).trans (by simp [RtcFile.dayCarry])

/-- Settles O32: the next day is put into the nine bits of the counter, and of the others only the day-carry is set. -/
theorem dayCounterWrapsAndTheCarrySticks : Obligations.DayCounterWrapsAndTheCarrySticks := by
  unfold Obligations.DayCounterWrapsAndTheCarrySticks
  intro f
  refine ⟨advanceDay_day f, advanceDay_dayCarry f, fun k hk hk6 => ?_, rfl, rfl, rfl⟩
  have hne : k ≠ 7 := by omega
  simp [advanceDay_getLsbD f hk (by omega), hne]

/-! ### The day-carry along the carry chain -/

theorem advanceHour_keeps_dayCarry {f : RtcFile} (h : f.dayCarry = true) : (advanceHour f).dayCarry = true := by
  simp only [advanceHour]
  split
  · rw [advanceDay_dayCarry, show RtcFile.dayCarry { f with hours := 0 } = true from h, Bool.true_or]
  · exact h

theorem advanceMinute_keeps_dayCarry {f : RtcFile} (h : f.dayCarry = true) : (advanceMinute f).dayCarry = true := by
  simp only [advanceMinute]
  split
  · exact advanceHour_keeps_dayCarry h
  · exact h

theorem advanceSecond_keeps_dayCarry {f : RtcFile} (h : f.dayCarry = true) : (advanceSecond f).dayCarry = true := by
  simp only [advanceSecond]
  split
  · exact advanceMinute_keeps_dayCarry h
  · exact h

/-- A write of another register than day-high leaves the day-carry alone. -/
theorem dayCarry_set {f : RtcFile} {r : RtcReg} (hr : r ≠ .dayHigh) (d : Byte) : (f.set r d).dayCarry = f.dayCarry := by
  cases r with
  | dayHigh => exact absurd rfl hr
  | seconds | minutes | hours | dayLow => rfl

/-! ### The contents -/

/-- A property that follows from one every next state has. -/
theorem EndsIn.mono {P Q : State → Prop} {o : Out} (h : EndsIn P o) (hPQ : ∀ t, P t → Q t) : EndsIn Q o :=
  fun t ht => hPQ t (h t ht)

/-- What the operations can store in: the RAM, the persistent store and the RTC. -/
def State.contents (s : State) : Memory × Option Memory × Rtc := (s.ram, s.store, s.rtc)

theorem State.contents_eq_iff {s t : State} :
    t.contents = s.contents ↔ t.ram = s.ram ∧ t.store = s.store ∧ t.rtc = s.rtc := by
  simp [State.contents]

/-- The operations that can move the contents. -/
def movesContents : Instr → Bool
  | .con | .linWrRamen _ _ | .linWrRam _ _ | .wcWrLatch _ _ | .wcWrRam _ _ | .wcWrRtc _ _ | .wcTick | .wbWrRam _ _ => true
  | _ => false

/-- Every other operation keeps them. -/
theorem exec_keeps_contents {i : Instr} (hi : movesContents i = false) (s : State) :
    EndsIn (fun t => t.contents = s.contents) (exec i s) := by
  cases i with
  | con | linWrRamen | linWrRam | wcWrLatch | wcWrRam | wcWrRtc | wcTick | wbWrRam => cases hi
  | roRdRom0 | roRdRomx | linRdRom0 | linRdRomx | wcRdRom0 | wcRdRomx | wbRdRom0 | wbRdRomx =>
    exact endsIn_whenRow (endsIn_readImage (fun _ => rfl) fun _ => rfl)
  | linRdRam | wcRdRam | wbRdRam => exact endsIn_whenRow (endsIn_readRam (fun _ => rfl) fun _ => rfl)
  | wcRdRtc => exact endsIn_whenRow (endsIn_withRtcReg fun _ => endsIn_complete rfl)
  | _ => exact endsIn_whenRow (endsIn_complete rfl)

/-! ### What the procedures of the store and the clock keep -/

@[simp] theorem ram_persistRtcBlock (now : Time) (s : State) : (persistRtcBlock now s).ram = s.ram := by
  obtain ⟨-, h⟩ | ⟨st, log, -, -, -, h⟩ := persistRtcBlock_cases now s <;> rw [h]

@[simp] theorem live_persistRtcBlock (now : Time) (s : State) : (persistRtcBlock now s).rtc.live = s.rtc.live := by
  obtain ⟨-, h⟩ | ⟨st, log, -, -, -, h⟩ := persistRtcBlock_cases now s <;> rw [h]

@[simp] theorem store_loadRam (s : State) : (loadRam s).store = s.store := by
  obtain ⟨-, h⟩ | ⟨st, log, -, -, -, h⟩ := loadRam_cases s <;> rw [h]

@[simp] theorem rtc_loadRam (s : State) : (loadRam s).rtc = s.rtc := by
  obtain ⟨-, h⟩ | ⟨st, log, -, -, -, h⟩ := loadRam_cases s <;> rw [h]

@[simp] theorem rtc_saveRam (s : State) : (saveRam s).rtc = s.rtc := by
  obtain ⟨-, h⟩ | ⟨st, log, -, -, -, h⟩ := saveRam_cases s <;> rw [h]

@[simp] theorem rtc_mirrorByte (off : Nat) (d : Byte) (s : State) : (mirrorByte off d s).rtc = s.rtc := by
  obtain ⟨-, h⟩ | ⟨st, -, ⟨-, h⟩ | ⟨-, h⟩⟩ := mirrorByte_cases off d s <;> rw [h]

@[simp] theorem rtc_linearEdge (new : Bool) (s : State) : (linearEdge new s).rtc = s.rtc := by
  unfold linearEdge
  split <;> split <;> simp

/-- Without a falling edge nothing is saved (41_linear_bank.md R163). -/
theorem store_linearEdge_of_disabled (new : Bool) {s : State} (h : s.lin.ramEnabled = false) :
    (linearEdge new s).store = s.store := by
  cases new <;> simp [linearEdge, h]

@[simp] theorem ram_latchCopy (d : Byte) (s : State) : (latchCopy d s).ram = s.ram := by
  unfold latchCopy
  split <;> rfl

@[simp] theorem store_latchCopy (d : Byte) (s : State) : (latchCopy d s).store = s.store := by
  unfold latchCopy
  split <;> rfl

@[simp] theorem live_latchCopy (d : Byte) (s : State) : (latchCopy d s).rtc.live = s.rtc.live := by
  unfold latchCopy
  split <;> rfl

@[simp] theorem ram_accumulate (s : State) : (accumulate s).ram = s.ram := rfl
@[simp] theorem live_accumulate (s : State) : (accumulate s).rtc.live = s.rtc.live := rfl
@[simp] theorem ram_reduceCounter (s : State) : (reduceCounter s).ram = s.ram := rfl
@[simp] theorem live_reduceCounter (s : State) : (reduceCounter s).rtc.live = s.rtc.live := rfl

@[simp] theorem ram_emitSecond (s : State) : (emitSecond s).ram = s.ram := by
  simp only [emitSecond]
  split <;> simp

@[simp] theorem live_emitSecond (s : State) : (emitSecond s).rtc.live = advanceSecond s.rtc.live := by
  simp only [emitSecond]
  split <;> simp

@[simp] theorem live_writeRtc (r : RtcReg) (d : Byte) (s : State) : (writeRtc r d s).rtc.live = s.rtc.live.set r d := by
  simp [writeRtc]

/-! ### The disabled window -/

/-- The row conditions of the accesses to the enabled window that can write (30_encoding.md R105). -/
def enabledWindowRows : List RowCond :=
  [.linearBank (some true), .wideClock (some .ram), .wideClock (some .rtc), .wideBank (some true)]

theorem windowDisabled_iff {m : Mode} :
    windowDisabled m = true ↔ m ∈ [.romOnly, .linearBank false, .wideClock .off, .wideBank false] := by
  cases m <;> simp [windowDisabled]

theorem not_holds_of_windowDisabled {m : Mode} (hm : windowDisabled m = true) {c : RowCond}
    (hc : c ∈ enabledWindowRows) : c.holds m = false := by
  have hrows : ∀ m ∈ [Mode.romOnly, .linearBank false, .wideClock .off, .wideBank false],
      ∀ c ∈ enabledWindowRows, c.holds m = false := by decide
  exact hrows m (windowDisabled_iff.1 hm) c hc

/-- While the window is disabled an operation on the enabled window has no next state. -/
theorem endsIn_whenRow_of_windowDisabled {P : State → Prop} {i : Instr} {s : State} {m : Out}
    (hoff : windowDisabled s.mode = true) (hi : i.rowCond ∈ enabledWindowRows) : EndsIn P (whenRow i s m) := by
  intro t ht
  obtain ⟨⟨-, -, happ⟩, -⟩ := whenRow_next ht
  rw [Instr.appliesIn, not_holds_of_windowDisabled hoff hi] at happ
  cases happ

theorem linear_disabled_of_windowDisabled {s : State} {a : Addr} {d : Byte} (h : s.Accepts (.linWrRamen a d))
    (hoff : windowDisabled s.mode = true) : s.lin.ramEnabled = false := by
  obtain ⟨-, -, happ⟩ := h
  revert happ hoff
  unfold State.mode
  cases s.cfg.variant <;> simp [Instr.appliesIn, Instr.rowCond, RowCond.holds, windowDisabled, admits]

theorem exec_keeps_ram_of_windowDisabled {i : Instr} {s : State} (hoff : windowDisabled s.mode = true)
    (hi : i.mnemonic ∉ ["CON", "LIN.WR.RAMEN"]) : EndsIn (fun t => t.ram = s.ram) (exec i s) := by
  cases i with
  | con | linWrRamen => exact absurd (by simp [Instr.mnemonic]) hi
  | linWrRam | wcWrRam | wcWrRtc | wbWrRam =>
    exact endsIn_whenRow_of_windowDisabled hoff (by simp [Instr.rowCond, enabledWindowRows])
  | wcWrLatch => exact endsIn_whenRow (endsIn_complete (by simp))
  | wcTick => exact endsIn_whenRow (endsIn_complete (by split <;> simp))
  | _ => exact (exec_keeps_contents rfl s).mono fun _ ht => (State.contents_eq_iff.1 ht).1

theorem exec_keeps_store_of_windowDisabled {i : Instr} {s : State} (hoff : windowDisabled s.mode = true)
    (hi : i.mnemonic ∉ ["CON", "WC.TICK"]) : EndsIn (fun t => t.store = s.store) (exec i s) := by
  cases i with
  | con | wcTick => exact absurd (by simp [Instr.mnemonic]) hi
  | linWrRam | wcWrRam | wcWrRtc | wbWrRam =>
    exact endsIn_whenRow_of_windowDisabled hoff (by simp [Instr.rowCond, enabledWindowRows])
  | wcWrLatch => exact endsIn_whenRow (endsIn_complete (by simp))
  | linWrRamen a d =>
    intro t ht
    obtain ⟨hacc, hm⟩ := whenRow_next ht
    rw [complete_next_iff.1 hm]
    exact store_linearEdge_of_disabled _ (linear_disabled_of_windowDisabled hacc hoff)
  | _ => exact (exec_keeps_contents rfl s).mono fun _ ht => (State.contents_eq_iff.1 ht).2.1

/-- Settles O53: by the two lemmas above, what changes the RAM or the store is one of the operations they leave out. -/
theorem disabledWindowProtectsRamAndStore : Obligations.DisabledWindowProtectsRamAndStore := by
  unfold Obligations.DisabledWindowProtectsRamAndStore
  intro i s t hoff h
  exact ⟨fun hram => Decidable.byContradiction fun hi => hram (exec_keeps_ram_of_windowDisabled hoff hi t h),
    fun hstore => Decidable.byContradiction fun hi => hstore (exec_keeps_store_of_windowDisabled hoff hi t h)⟩

/-! ### The live clock -/

theorem selectorOf_dayHigh {v : Byte} (h : selectorOf v = .rtc .dayHigh) : v = 0x0C := by
  revert v
  decide

/-- A tick emits one second or none (43_rtc.md R240). -/
theorem execWcTick_live (s : State) :
    EndsIn (fun t => t.rtc.live = s.rtc.live ∨ t.rtc.live = advanceSecond s.rtc.live) (execWcTick s) := by
  refine endsIn_whenRow (endsIn_complete ?_)
  split
  · exact .inr (live_emitSecond _)
  · exact .inl rfl

/-- An RTC write puts the datum into the selected register of `live` or changes nothing (43_rtc.md R233, R234). -/
theorem execWcWrRtc_live (a : Addr) (d : Byte) (s : State) :
    EndsIn (fun t => t.rtc.live = s.rtc.live ∨
      ∃ r, selectorOf s.wc.ramBankOrRtcRegister = .rtc r ∧ t.rtc.live = s.rtc.live.set r d) (execWcWrRtc a d s) := by
  intro t ht
  obtain ⟨r, hr, hm⟩ := withRtcReg_next (whenRow_next ht).2
  rw [complete_next_iff.1 hm]
  split
  · exact .inr ⟨r, hr, live_writeRtc r d s⟩
  · exact .inl rfl

/-- The offset stays a variable here: with a concrete one the kernel would compute where the byte is placed. -/
theorem writeRam_keeps_live {off : Nat} {d : Byte} {mirror : State → State} {s : State}
    (h : ∀ u, (mirror u).rtc.live = u.rtc.live) :
    EndsIn (fun t => t.rtc.live = s.rtc.live) (writeRam off d mirror s) :=
  endsIn_writeRam (h (putRam off d s)) fun _ => rfl

/-- No operation but `CON`, an RTC write and a tick touches the live file (43_rtc.md R220). -/
theorem exec_keeps_live {i : Instr} (hi : i.mnemonic ∉ ["CON", "WC.WR.RTC", "WC.TICK"]) (s : State) :
    EndsIn (fun t => t.rtc.live = s.rtc.live) (exec i s) := by
  cases i with
  | con | wcWrRtc | wcTick => exact absurd (by simp [Instr.mnemonic]) hi
  | linWrRam => exact endsIn_whenRow (writeRam_keeps_live fun _ => rfl)
  | wcWrRam | wbWrRam => exact endsIn_whenRow (writeRam_keeps_live fun _ => congrArg Rtc.live (rtc_mirrorByte _ _ _))
  | linWrRamen => exact endsIn_whenRow (endsIn_complete (by simp))
  | wcWrLatch => exact endsIn_whenRow (endsIn_complete (by simp))
  | _ => exact (exec_keeps_contents rfl s).mono fun _ ht => congrArg Rtc.live (State.contents_eq_iff.1 ht).2.2

/-- Settles O57: `live` moves only by a second forward, which keeps a set day-carry, or by a write of another register. -/
theorem theDayCarryStaysSet : Obligations.TheDayCarryStaysSet := by
  unfold Obligations.TheDayCarryStaysSet
  intro i s t hcarry h hcon hsel
  cases i with
  | con => exact absurd rfl hcon
  | wcTick =>
    obtain hlive | hlive := execWcTick_live s t h <;> rw [hlive]
    · exact hcarry
    · exact advanceSecond_keeps_dayCarry hcarry
  | wcWrRtc a d =>
    obtain hlive | ⟨r, hr, hlive⟩ := execWcWrRtc_live a d s t h <;> rw [hlive]
    · exact hcarry
    · have hne : r ≠ .dayHigh := by
        rintro rfl
        exact hsel rfl (selectorOf_dayHigh hr)
      rw [dayCarry_set hne, hcarry]
  | _ =>
    rw [exec_keeps_live (by simp [Instr.mnemonic]) s t h]
    exact hcarry

end Sys2Proof.Machine

/-! SUPPORT. RAM and store (20_memory.md R80, R83, R88): a byte written through reaches both, each copy between them makes them
agree, and the RTC block lies behind the RAM. -/

namespace Sys2Proof.Machine

/-! ### One byte written through -/

/-- Of the array only the byte at the offset is another one. -/
def Memory.TakesByte (m m' : Memory) (off : Nat) (d : Byte) : Prop :=
  m'.size = m.size ∧ m'.read off = d ∧ ∀ k, k ≠ off → m'.read k = m.read k

theorem Memory.takesByte_write {m : Memory} (h : m.wf = true) {off : Nat} (hoff : off < m.size) (d : Byte) :
    m.TakesByte (m.write off d) off d :=
  ⟨m.size_write off d, (Memory.read_write h hoff d off).trans (if_pos rfl),
    fun k hk => (Memory.read_write h hoff d k).trans (if_neg hk)⟩

theorem storeFits_iff {c : CartConfig} {st : Memory} :
    storeFits c st = true ↔ st.wf = true ∧ st.size = storeSizeOf c.variant c.ramSize := by
  simp [storeFits]

/-- The store reaches at least as far as the RAM (45_persistent_store.md R283). -/
theorem ramSize_le_size_of_storeFits {c : CartConfig} {st : Memory} (h : storeFits c st = true) :
    c.ramSize ≤ st.size :=
  (storeFits_iff.1 h).2 ▸ le_storeSizeOf _ _

/-- An accepted write of a write-through variant puts the byte into the RAM and, when there is a store, at the same offset of the
store (20_memory.md R88). -/
theorem writeRam_mirrorByte {s : State} (hinv : s.Inv) {off : Nat} (hoff : off < s.cfg.ramSize) (d : Byte)
    (hmoved : s.store = none ∨ s.port.transfer.covers 1 = true) :
    ∃ (ram : Memory) (store : Option Memory),
      writeRam off d (mirrorByte off d) s = .next { s with ram := ram, store := store, result := .done } ∧
      s.ram.TakesByte ram off d ∧ (s.store = none → store = none) ∧
      ∀ st, s.store = some st → ∃ st', store = some st' ∧ st.TakesByte st' off d := by
  have hram := Memory.takesByte_write hinv.ramWf (hinv.ramSize ▸ hoff) d
  rw [writeRam_eq, if_pos hoff]
  obtain ⟨hnone, hmirror⟩ | ⟨st, hst, ⟨-, hmirror⟩ | ⟨hshort, -⟩⟩ :=
    mirrorByte_cases off d { s with ram := s.ram.write off d }
  · refine ⟨s.ram.write off d, s.store, by rw [hmirror], hram, id, fun st hst => ?_⟩
    rw [show s.store = none from hnone] at hst
    cases hst
  · refine ⟨s.ram.write off d, some (st.write off d), by rw [hmirror], hram, fun hnone => ?_, fun st' hst' => ?_⟩
    · rw [show s.store = some st from hst] at hnone
      cases hnone
    · obtain rfl : st = st' := Option.some.inj (hst.symm.trans hst')
      have hfits := hinv.storeOk st hst
      exact ⟨_, rfl, Memory.takesByte_write (storeFits_iff.1 hfits).1
        (hoff.trans_le (ramSize_le_size_of_storeFits hfits)) d⟩
  · obtain hnone | hcovers := hmoved
    · rw [show s.store = some st from hst] at hnone
      cases hnone
    · rw [show s.port.transfer.moved 1 = 1 from Transfer.moved_of_covers hcovers] at hshort
      cases hshort

/-! ### Agreement of RAM and store -/

/-- The store begins with the bytes of the RAM. -/
def State.Agree (s : State) : Prop :=
  ∀ st, s.store = some st → ∀ k, k < s.cfg.ramSize → st.read k = s.ram.read k

theorem State.mirrored_iff {s : State} :
    s.Mirrored ↔ ((s.cfg.variant = .linearBank → s.lin.ramEnabled = false) → s.Agree) := Iff.rfl

theorem State.Agree.mirrored {s : State} (h : s.Agree) : s.Mirrored := State.mirrored_iff.2 fun _ => h

/-- On a write-through variant RAM and store agree at every moment. -/
theorem State.Mirrored.agree {s : State} (h : s.Mirrored) (hv : s.cfg.variant ≠ .linearBank) : s.Agree :=
  State.mirrored_iff.1 h fun hlin => absurd hlin hv

/-- The save of the falling edge makes the store begin with the RAM (45_persistent_store.md R290). -/
theorem agree_saveRam {s : State} (ht : s.port.transfer = .complete) : (saveRam s).Agree := by
  obtain ⟨hnone, heq⟩ | ⟨st, log, -, -, -, heq⟩ := saveRam_cases s <;> rw [heq]
  · intro st hst
    rw [hnone] at hst
    cases hst
  · rintro _ ⟨⟩ k hk
    rw [Memory.read_copyFirst, ht, Transfer.moved_complete, if_pos hk]

/-- The RTC block goes to the store behind the RAM (45_persistent_store.md R282, R289). -/
theorem agree_persistRtcBlock (now : Time) {s : State} (hv : s.cfg.variant = .wideClock)
    (hstore : ∀ st, s.store = some st → storeFits s.cfg st = true) (h : s.Agree) :
    (persistRtcBlock now s).Agree := by
  obtain ⟨-, heq⟩ | ⟨st, log, hst, -, -, heq⟩ := persistRtcBlock_cases now s <;> rw [heq]
  · exact h
  · rintro _ ⟨⟩ k hk
    obtain ⟨hwf, hsize⟩ := storeFits_iff.1 (hstore st hst)
    have hfit : s.cfg.ramSize +
        ((rtcBlock { s.rtc with lastSave := now }).take (s.port.transfer.moved 22)).length ≤ st.size := by
      simp [hsize, hv, storeSizeOf, Config.rtcBlockBytes]
    rw [Memory.read_writeList hwf _ _ hfit, if_neg fun hbehind => absurd hbehind.1 (Nat.not_le.2 hk)]
    exact h st hst k hk

theorem agree_emitSecond {s : State} (hv : s.cfg.variant = .wideClock)
    (hstore : ∀ st, s.store = some st → storeFits s.cfg st = true) (h : s.Agree) : (emitSecond s).Agree := by
  simp only [emitSecond]
  split
  · exact agree_persistRtcBlock s.port.now (s := s.setRtc { s.rtc with live := advanceSecond s.rtc.live }) hv hstore h
  · exact agree_persistRtcBlock s.port.now
      (s := reduceCounter (s.setRtc { s.rtc with live := advanceSecond s.rtc.live })) hv hstore h

theorem agree_fastForwardIfClocked {s : State} (hstore : ∀ st, s.store = some st → storeFits s.cfg st = true)
    (h : s.Agree) : (fastForwardIfClocked s).Agree := by
  unfold fastForwardIfClocked
  split
  · next hclock => exact agree_persistRtcBlock s.port.now (s := s.setRtc _) hclock.1 hstore h
  · exact h

/-! ### Construction -/

theorem opened_of_complete {s : State} (h : s.port.con.openTransfer = .complete) : s.opened = s.storeSize := by
  simp [State.opened, h]

/-- An `open` that is not cut short makes RAM and store agree: a new store begins with the RAM, a save file is loaded into it
(45_persistent_store.md R284, R287, R288). -/
theorem agree_openStore {s : State} (hram : s.ram.wf = true) (hsize : s.ram.size = s.cfg.ramSize)
    (ht : s.port.con.openTransfer = .complete) : (openStore s).Agree := by
  have hopened : ∀ k, k < s.cfg.ramSize → k < s.opened := fun k hk =>
    opened_of_complete ht ▸ hk.trans_le (le_storeSizeOf _ _)
  obtain ⟨-, heq⟩ | ⟨-, log, -, ⟨-, heq⟩ | ⟨f, -, heq⟩⟩ := openStore_cases s <;> rw [heq] <;> rintro _ ⟨⟩ k hk
  · rw [read_createdStore, if_pos (hopened k hk), read_snapshot_ram hram hsize hk]
  · rw [Memory.read_copyFirst, if_pos hk, read_loadedImage, if_pos (hopened k hk)]

/-- The store that `open` leaves fits when the save file does. -/
theorem storeFits_openStore {s : State} (hram : s.ram.wf = true) (hsize : s.ram.size = s.cfg.ramSize)
    (hport : s.port.wf = true) (hfile : s.cfg.attached = true → ∀ f, s.cfg.file0 = some f → storeFits s.cfg f = true)
    {st : Memory} (hst : (openStore s).store = some st) : storeFits s.cfg st = true := by
  obtain ⟨-, heq⟩ | ⟨hatt, log, -, ⟨-, heq⟩ | ⟨f, hf, heq⟩⟩ := openStore_cases s <;> rw [heq] at hst <;> cases hst
  · have hunwritten : Memory.canonicalFrom 0 s.port.con.unwritten = true := by
      simp only [Request.wf, Bool.and_eq_true] at hport
      exact hport.2
    exact storeFits_iff.2 ⟨wf_createdStore hunwritten hram hsize, size_createdStore s⟩
  · exact hfile hatt st hf

/-- The save file a `CON` finds is in canonical form. -/
theorem wf_saveFileFound {s : State} (hinv : s.Inv) {f : Memory} (hf : saveFileFound s = some f) : f.wf = true := by
  have hport := hinv.portWf
  simp only [Request.wf, Bool.and_eq_true] at hport
  obtain ⟨⟨-, hfile⟩, -⟩ := hport
  unfold saveFileFound at hf
  split at hf
  · cases hf
  · next g hg =>
    cases hf
    rw [hg] at hfile
    exact hfile
  · exact (storeFits_iff.1 (hinv.storeOk f hf)).1

/-- A `CON` without a problem finds a save file of the size of its store, or none (00_scope.md R12). -/
theorem size_saveFileFound {ct : CartType} {s : State} (h : conProblem ct s = none)
    (hatt : attachedAs ct.variant ct.hasBattery = true) {f : Memory} (hf : saveFileFound s = some f) :
    f.size = storeSizeOf ct.variant s.port.con.ramSizeBytes := by
  by_contra hne
  simp only [conProblem, if_pos hatt, hf, saveFileProblem, if_neg hne] at h
  split at h <;> cases h

/-- What `CON` builds has RAM and store in agreement. -/
theorem execCon_mirrored {s : State} (hinv : s.Inv) (h : s.Mirrored) (ht : s.port.con.openTransfer = .complete) :
    EndsIn State.Mirrored (execCon s) := by
  unfold execCon
  split
  · exact endsIn_raise h
  · next ct _ =>
    split
    · rintro _ ⟨⟩
    · next hok =>
      have hram : (resetInstance ct s).ram.wf = true := Memory.wf_initialRam hinv.paramsOk _
      have hcfg : (openStore (resetInstance ct s)).cfg = (resetInstance ct s).cfg :=
        (State.setup_eq_iff.1 (setup_openStore _)).2.2.2
      have hbuilt : (fastForwardIfClocked (openStore (resetInstance ct s))).Agree :=
        agree_fastForwardIfClocked
          (fun st hst => hcfg ▸ storeFits_openStore hram rfl hinv.portWf
            (fun hatt f hf => storeFits_iff.2 ⟨wf_saveFileFound hinv hf, size_saveFileFound hok hatt hf⟩) hst)
          (agree_openStore hram rfl ht)
      exact endsIn_complete (State.Agree.mirrored hbuilt)

/-! ### The variant of an accepted operation -/

theorem linear_of_applies {s : State} {c : Option Bool} (h : (RowCond.linearBank c).holds s.mode = true) :
    s.cfg.variant = .linearBank ∧ admits c s.lin.ramEnabled = true := by
  revert h
  unfold State.mode
  cases s.cfg.variant <;> simp [RowCond.holds]

theorem wideClock_of_applies {s : State} {c : Option Window} (h : (RowCond.wideClock c).holds s.mode = true) :
    s.cfg.variant = .wideClock := by
  revert h
  unfold State.mode
  cases s.cfg.variant <;> simp [RowCond.holds]

theorem wideBank_of_applies {s : State} {c : Option Bool} (h : (RowCond.wideBank c).holds s.mode = true) :
    s.cfg.variant = .wideBank := by
  revert h
  unfold State.mode
  cases s.cfg.variant <;> simp [RowCond.holds]

/-! ### Every operation keeps the agreement -/

/-- A write-through write of a complete byte (20_memory.md R88). -/
theorem writeRam_mirrorByte_mirrored {s : State} (hinv : s.Inv) (h : s.Mirrored) (hv : s.cfg.variant ≠ .linearBank)
    (ht : s.port.transfer = .complete) (off : Nat) (d : Byte) :
    EndsIn State.Mirrored (writeRam off d (mirrorByte off d) s) := by
  intro t hnext
  by_cases hoff : off < s.cfg.ramSize
  · obtain ⟨ram, store, heq, ⟨-, hramOff, hram⟩, hnone, hsome⟩ :=
      writeRam_mirrorByte hinv hoff d (.inr (by rw [ht]; rfl))
    obtain rfl := Host.Outcome.next.inj (heq.symm.trans hnext)
    refine State.Agree.mirrored fun st' hst' k hk => ?_
    replace hst' : store = some st' := hst'
    cases hst : s.store with
    | none =>
      rw [hnone hst] at hst'
      cases hst'
    | some st =>
      obtain ⟨st'', hstore, -, hstOff, hstK⟩ := hsome st hst
      obtain rfl := Option.some.inj (hstore.symm.trans hst')
      show st''.read k = ram.read k
      by_cases hkoff : k = off
      · rw [hkoff, hstOff, hramOff]
      · rw [hstK k hkoff, hram k hkoff]
        exact h.agree hv st hst k hk
  · rw [writeRam_eq, if_neg hoff] at hnext
    obtain rfl := Host.Outcome.next.inj hnext
    exact h

/-- On `LinearBank` no agreement is asked while the RAM is enabled, so a write needs no mirror (41_linear_bank.md R171). The offset
stays a variable: with a concrete one the kernel would compute where the byte is placed. -/
theorem writeRam_mirrored_of_enabled {s : State} (hv : s.cfg.variant = .linearBank) (hen : s.lin.ramEnabled = true)
    (off : Nat) (d : Byte) : EndsIn State.Mirrored (writeRam off d id s) := by
  have hnot : ¬ (s.cfg.variant = .linearBank → s.lin.ramEnabled = false) := fun hoff =>
    absurd (hen.symm.trans (hoff hv)) (by decide)
  exact endsIn_writeRam (fun hoff => absurd hoff hnot) fun _ hoff => absurd hoff hnot

theorem execLinWrRam_mirrored (a : Addr) (d : Byte) (s : State) : EndsIn State.Mirrored (execLinWrRam a d s) := by
  intro t hnext
  obtain ⟨⟨-, -, happ⟩, hm⟩ := whenRow_next hnext
  obtain ⟨hv, hen⟩ := linear_of_applies happ
  exact writeRam_mirrored_of_enabled hv (of_decide_eq_true hen).symm _ d t hm

/-- On `LinearBank` the falling edge saves the RAM; a write that leaves it disabled copies nothing (41_linear_bank.md R163). -/
theorem execLinWrRamen_mirrored {s : State} (h : s.Mirrored) (ht : s.port.transfer = .complete) (a : Addr) (d : Byte) :
    EndsIn State.Mirrored (execLinWrRamen a d s) := by
  intro t hnext
  obtain ⟨⟨-, -, happ⟩, hm⟩ := whenRow_next hnext
  obtain ⟨hv, -⟩ := linear_of_applies happ
  refine endsIn_complete (State.mirrored_iff.2 fun hoff => ?_) t hm
  have hcfg : (linearEdge (enables d) s).cfg = s.cfg := (State.setup_eq_iff.1 (setup_linearEdge _ _)).2.2.2
  have hfall : enables d = false := hoff (by simp [hcfg, hv])
  show (linearEdge (enables d) s).Agree
  rw [hfall]
  cases hen : s.lin.ramEnabled with
  | true =>
    simp only [linearEdge, hen]
    exact agree_saveRam ht
  | false =>
    simp only [linearEdge, hen]
    exact h fun _ => hen

/-- A tick and an RTC write persist the RTC block, which lies behind the RAM (43_rtc.md R233, R240). -/
theorem execWcTick_mirrored {s : State} (hinv : s.Inv) (h : s.Mirrored) : EndsIn State.Mirrored (execWcTick s) := by
  intro t hnext
  obtain ⟨⟨-, -, happ⟩, hm⟩ := whenRow_next hnext
  have hv := wideClock_of_applies happ
  refine endsIn_complete (State.Agree.mirrored ?_) t hm
  have hagree : s.Agree := h.agree (by rw [hv]; decide)
  split
  · exact agree_emitSecond (s := accumulate s) hv hinv.storeOk hagree
  · exact hagree

theorem execWcWrRtc_mirrored {s : State} (hinv : s.Inv) (h : s.Mirrored) (a : Addr) (d : Byte) :
    EndsIn State.Mirrored (execWcWrRtc a d s) := by
  intro t hnext
  obtain ⟨⟨-, -, happ⟩, hm⟩ := whenRow_next hnext
  have hv := wideClock_of_applies happ
  refine endsIn_withRtcReg (fun r => endsIn_complete (State.Agree.mirrored ?_)) t hm
  have hagree : s.Agree := h.agree (by rw [hv]; decide)
  split
  · exact agree_persistRtcBlock s.port.now (s := s.setRtc _) hv hinv.storeOk hagree
  · exact hagree

theorem execWcWrLatch_mirrored {s : State} (h : s.Mirrored) (a : Addr) (d : Byte) :
    EndsIn State.Mirrored (execWcWrLatch a d s) := by
  refine endsIn_whenRow (endsIn_complete ?_)
  unfold latchCopy
  split
  · exact h
  · exact h

theorem exec_keeps_mirrored {i : Instr} {s : State} (hinv : s.Inv) (h : s.Mirrored)
    (ht : s.port.transfer = .complete) (hopen : s.port.con.openTransfer = .complete) :
    EndsIn State.Mirrored (exec i s) := by
  cases i with
  | con => exact execCon_mirrored hinv h hopen
  | linWrRam => exact execLinWrRam_mirrored _ _ s
  | linWrRamen => exact execLinWrRamen_mirrored h ht _ _
  | wcWrRam =>
    intro t hnext
    obtain ⟨⟨-, -, happ⟩, hm⟩ := whenRow_next hnext
    exact writeRam_mirrorByte_mirrored hinv h (by rw [wideClock_of_applies happ]; decide) ht _ _ t hm
  | wbWrRam =>
    intro t hnext
    obtain ⟨⟨-, -, happ⟩, hm⟩ := whenRow_next hnext
    exact writeRam_mirrorByte_mirrored hinv h (by rw [wideBank_of_applies happ]; decide) ht _ _ t hm
  | wcWrRtc => exact execWcWrRtc_mirrored hinv h _ _
  | wcTick => exact execWcTick_mirrored hinv h
  | wcWrLatch => exact execWcWrLatch_mirrored h _ _
  | roRdRom0 | roRdRomx | linRdRom0 | linRdRomx | wcRdRom0 | wcRdRomx | wbRdRom0 | wbRdRomx =>
    exact endsIn_whenRow (endsIn_readImage (fun _ => h) fun _ => h)
  | linRdRam | wcRdRam | wbRdRam => exact endsIn_whenRow (endsIn_readRam (fun _ => h) fun _ => h)
  | wcRdRtc => exact endsIn_whenRow (endsIn_withRtcReg fun _ => endsIn_complete h)
  | _ => exact endsIn_whenRow (endsIn_complete h)

/-! ### One step -/

/-- A step is the decoded operation on the oldest request (10_state.md R22). -/
theorem step_next {s t : State} (h : step s = .next t) :
    ∃ r rest i, s.pending = r :: rest ∧ decode s.mode r.word = .ok i ∧ exec i (takeRequest r rest s) = .next t := by
  unfold step at h
  split at h
  · cases h
  · next r rest hpending =>
    split at h
    · cases h
    · next i hdecode => exact ⟨r, rest, i, hpending, hdecode, h⟩

theorem State.Inv.takeRequest {s : State} (hinv : s.Inv) {r : Request} {rest : List Request}
    (hpending : s.pending = r :: rest) : (Machine.takeRequest r rest s).Inv :=
  { hinv with
    portWf := hinv.pendingWf r (by simp [hpending])
    pendingWf := fun q hq => hinv.pendingWf q (by rw [hpending]; exact List.mem_cons_of_mem r hq) }

/-- Settles O49: taking a request touches neither RAM nor store, and every operation keeps their agreement. -/
theorem stepKeepsRamAndStoreInAgreement : Obligations.StepKeepsRamAndStoreInAgreement := by
  unfold Obligations.StepKeepsRamAndStoreInAgreement
  intro s t hinv hmirrored hcomplete h
  obtain ⟨r, rest, i, hpending, -, hexec⟩ := step_next h
  obtain ⟨ht, hopen⟩ := hcomplete r (by rw [hpending]; rfl)
  exact exec_keeps_mirrored (hinv.takeRequest hpending) (show (takeRequest r rest s).Mirrored from hmirrored) ht hopen t hexec

end Sys2Proof.Machine

/-! SUPPORT. The writers of the store (20_memory.md R88): a RAM write of `WideBank` reaches it byte for byte, every operation but `CON`
keeps its size, and all but a few operations keep its bytes. -/

namespace Sys2Proof.Machine

/-! ### The RAM window of `WideBank` -/

/-- Settles O38: the offset is the one of the obligation, and the write is a write-through one. -/
theorem wideBankRamWindowWritesThrough : Obligations.WideBankRamWindowWritesThrough := by
  unfold Obligations.WideBankRamWindowWritesThrough
  intro s a d off hoff
  have hread : exec (.wbRdRam a) s = whenRow (.wbRdRam a) s (readRam off s) := by rw [hoff]; rfl
  have hwrite : exec (.wbWrRam a d) s = whenRow (.wbWrRam a d) s (writeRam off d (mirrorByte off d) s) := by
    rw [hoff]
    rfl
  refine ⟨fun hacc hlt => ?_, fun hacc hlt hinv hmoved => ?_, fun i hi hacc hge => ?_⟩
  · rw [hread, whenRow_of_accepts hacc, readRam_eq, if_pos hlt]
  · rw [hwrite, whenRow_of_accepts hacc]
    obtain ⟨ram, store, heq, ⟨hsize, hbyte, hrest⟩, hnone, hsome⟩ := writeRam_mirrorByte hinv hlt d hmoved
    exact ⟨ram, store, heq, hsize, hbyte, hrest, hnone, hsome⟩
  · have hpast : ¬ off < s.cfg.ramSize := Nat.not_lt.2 hge
    obtain rfl | rfl : i = .wbRdRam a ∨ i = .wbWrRam a d := by simpa using hi
    · rw [hread, whenRow_of_accepts hacc, readRam_eq, if_neg hpast]
    · rw [hwrite, whenRow_of_accepts hacc, writeRam_eq, if_neg hpast]

/-! ### The writers of the store -/

/-- Whether there is a store, and its size (45_persistent_store.md R283). -/
def State.storeShape (s : State) : Option Nat := s.store.map Memory.size

@[simp] theorem storeShape_setRtc (s : State) (x : Rtc) : (s.setRtc x).storeShape = s.storeShape := rfl
@[simp] theorem storeShape_setLin (s : State) (x : LinearRegs) : (s.setLin x).storeShape = s.storeShape := rfl
@[simp] theorem storeShape_setResult (s : State) (x : Result) : (s.setResult x).storeShape = s.storeShape := rfl
@[simp] theorem storeShape_accumulate (s : State) : (accumulate s).storeShape = s.storeShape := rfl
@[simp] theorem storeShape_reduceCounter (s : State) : (reduceCounter s).storeShape = s.storeShape := rfl

@[simp] theorem storeShape_mirrorByte (off : Nat) (d : Byte) (s : State) :
    (mirrorByte off d s).storeShape = s.storeShape := by
  obtain ⟨-, h⟩ | ⟨st, hst, ⟨-, h⟩ | ⟨-, h⟩⟩ := mirrorByte_cases off d s <;> rw [h]
  · simp [State.storeShape, hst]
  · rfl

@[simp] theorem storeShape_saveRam (s : State) : (saveRam s).storeShape = s.storeShape := by
  obtain ⟨-, h⟩ | ⟨st, log, hst, -, -, h⟩ := saveRam_cases s <;> rw [h]
  simp [State.storeShape, hst]

@[simp] theorem storeShape_loadRam (s : State) : (loadRam s).storeShape = s.storeShape :=
  congrArg (Option.map Memory.size) (store_loadRam s)

@[simp] theorem storeShape_linearEdge (new : Bool) (s : State) : (linearEdge new s).storeShape = s.storeShape := by
  unfold linearEdge
  split <;> split <;> simp

@[simp] theorem storeShape_persistRtcBlock (now : Time) (s : State) :
    (persistRtcBlock now s).storeShape = s.storeShape := by
  obtain ⟨-, h⟩ | ⟨st, log, hst, -, -, h⟩ := persistRtcBlock_cases now s <;> rw [h]
  · rfl
  · simp [State.storeShape, hst]

@[simp] theorem storeShape_emitSecond (s : State) : (emitSecond s).storeShape = s.storeShape := by
  simp only [emitSecond]
  split <;> simp

@[simp] theorem storeShape_writeRtc (r : RtcReg) (d : Byte) (s : State) : (writeRtc r d s).storeShape = s.storeShape := by
  simp [writeRtc]

/-- The offset stays a variable here: with a concrete one the kernel would compute where the byte is placed. -/
theorem writeRam_mirrorByte_keeps_storeShape (off : Nat) (d : Byte) (s : State) :
    EndsIn (fun t => t.storeShape = s.storeShape) (writeRam off d (mirrorByte off d) s) :=
  endsIn_writeRam (storeShape_mirrorByte off d (putRam off d s)) fun _ => rfl

theorem writeRam_keeps_store (off : Nat) (d : Byte) (s : State) :
    EndsIn (fun t => t.store = s.store) (writeRam off d id s) :=
  endsIn_writeRam rfl fun _ => rfl

/-- The operations that can write a byte of the store, beside `CON` (20_memory.md R88). -/
def writesStore : Instr → Bool
  | .con | .linWrRamen _ _ | .wcWrRam _ _ | .wcWrRtc _ _ | .wcTick | .wbWrRam _ _ => true
  | _ => false

/-- Every other operation keeps the store; on `LinearBank` a RAM write is one of them (41_linear_bank.md R171). -/
theorem exec_keeps_store {i : Instr} (hi : writesStore i = false) (s : State) :
    EndsIn (fun t => t.store = s.store) (exec i s) := by
  cases i with
  | con | linWrRamen | wcWrRam | wcWrRtc | wcTick | wbWrRam => cases hi
  | linWrRam => exact endsIn_whenRow (writeRam_keeps_store _ _ s)
  | wcWrLatch => exact endsIn_whenRow (endsIn_complete (by simp))
  | _ => exact (exec_keeps_contents rfl s).mono fun _ ht => (State.contents_eq_iff.1 ht).2.1

/-- No operation but `CON` creates, closes or resizes the store. -/
theorem exec_keeps_storeShape {i : Instr} (hi : i ≠ .con) (s : State) :
    EndsIn (fun t => t.storeShape = s.storeShape) (exec i s) := by
  cases i with
  | con => exact absurd rfl hi
  | linWrRamen => exact endsIn_whenRow (endsIn_complete (by simp))
  | wcWrRam | wbWrRam => exact endsIn_whenRow (writeRam_mirrorByte_keeps_storeShape _ _ s)
  | wcWrRtc => exact endsIn_whenRow (endsIn_withRtcReg fun _ => endsIn_complete (by split <;> simp))
  | wcTick => exact endsIn_whenRow (endsIn_complete (by split <;> simp))
  | _ => exact (exec_keeps_store rfl s).mono fun _ ht => congrArg (Option.map Memory.size) ht

/-- The enable write saves only when it disables an enabled RAM (41_linear_bank.md R163). -/
theorem execLinWrRamen_keeps_store {s : State} (hen : s.lin.ramEnabled = false) (a : Addr) (d : Byte) :
    EndsIn (fun t => t.store = s.store) (execLinWrRamen a d s) :=
  endsIn_whenRow (endsIn_complete (store_linearEdge_of_disabled (enables d) hen))

/-- Settles O54: every operation but `CON` keeps the shape of the store, and all but the writers the store itself. -/
theorem theStoreChangesOnlyByItsWriters : Obligations.TheStoreChangesOnlyByItsWriters := by
  unfold Obligations.TheStoreChangesOnlyByItsWriters
  intro i s t h hcon
  refine ⟨fun hchanged => ?_, exec_keeps_storeShape hcon s t h⟩
  cases i with
  | con => exact absurd rfl hcon
  | wcWrRam | wcWrRtc | wcTick | wbWrRam => exact .inl (by simp [Instr.mnemonic])
  | linWrRamen a d =>
    refine .inr ⟨rfl, ?_⟩
    by_contra hen
    exact hchanged (execLinWrRamen_keeps_store (Bool.eq_false_of_not_eq_true hen) a d t h)
  | _ => exact absurd (exec_keeps_store rfl s t h) hchanged

end Sys2Proof.Machine

/-! SUPPORT. The RTC block (45_persistent_store.md R282, R287): its bytes are the ones of the RTC state in a fixed order, from which
the state can be told, and what a store holds where the block stands is read as the state of those bytes. -/

namespace Sys2Proof.Machine

/-! ### Little-endian numbers -/

/-- Byte `j` of a number (20_memory.md R85). -/
theorem leBytes_getD (n v : Nat) {j : Nat} (hj : j < n) : (leBytes n v).getD j 0 = BitVec.ofNat 8 (v / 256 ^ j) := by
  induction n generalizing v j with
  | zero => omega
  | succ n ih =>
    cases j with
    | zero => simp [leBytes]
    | succ j => rw [leBytes, List.getD_cons_succ, ih _ (by omega), Nat.div_div_eq_div_mul, Nat.pow_succ']

/-- Byte `j` of a word is its bits from `8 * j` on. -/
theorem leBytes_toNat_getD {w : Nat} (x : BitVec w) (n : Nat) {j : Nat} (hj : j < n) :
    (leBytes n x.toNat).getD j 0 = x.extractLsb' (8 * j) 8 := by
  rw [leBytes_getD n _ hj, BitVec.extractLsb', Nat.shiftRight_eq_div_pow, Nat.pow_mul]

theorem leValue_lt (bs : List Byte) : leValue bs < 256 ^ bs.length := by
  induction bs with
  | nil => decide
  | cons b t ih =>
    have hb := b.isLt
    rw [List.length_cons, Nat.pow_succ', leValue]
    omega

/-- The bytes of the number that bytes stand for are those bytes. -/
theorem leBytes_leValue (bs : List Byte) : leBytes bs.length (leValue bs) = bs := by
  induction bs with
  | nil => rfl
  | cons b t ih =>
    have hb : b.toNat < 256 := b.isLt
    have hhead : BitVec.ofNat 8 (leValue (b :: t)) = b :=
      BitVec.eq_of_toNat_eq (by simp [leValue, Nat.mod_eq_of_lt hb])
    have htail : leValue (b :: t) / 256 = leValue t := by
      rw [leValue]
      omega
    rw [List.length_cons, leBytes, hhead, htail, ih]

/-- A word of `n` bytes can be told from its bytes. -/
theorem leBytes_toNat_injective {n : Nat} {x y : BitVec (8 * n)} (h : leBytes n x.toNat = leBytes n y.toNat) : x = y := by
  have hlt : ∀ z : BitVec (8 * n), z.toNat % 256 ^ n = z.toNat := fun z =>
    Nat.mod_eq_of_lt (by rw [show 256 ^ n = 2 ^ (8 * n) from (Nat.pow_mul 2 8 n).symm]; exact z.isLt)
  have hvalue := congrArg leValue h
  rw [leValue_leBytes, leValue_leBytes, hlt, hlt] at hvalue
  exact BitVec.eq_of_toNat_eq hvalue

/-- The bytes of a word made from `n` bytes are those bytes. -/
theorem leBytes_ofNat_leValue {n : Nat} {bs : List Byte} (hlen : bs.length = n) :
    leBytes n (BitVec.ofNat (8 * n) (leValue bs)).toNat = bs := by
  have hlt : leValue bs < 2 ^ (8 * n) := by
    rw [Nat.pow_mul, ← hlen]
    exact leValue_lt bs
  rw [BitVec.toNat_ofNat, Nat.mod_eq_of_lt hlt, ← hlen, leBytes_leValue]

/-! ### The block -/

theorem Memory.readList_append (m : Memory) (off k n : Nat) :
    m.readList off (k + n) = m.readList off k ++ m.readList (off + k) n := by
  induction k generalizing off with
  | zero => simp [Memory.readList]
  | succ k ih =>
    rw [Nat.add_right_comm, Memory.readList, ih, Memory.readList, List.cons_append, Nat.add_assoc, Nat.add_comm 1 k]

theorem RtcFile.bytes_injective {f g : RtcFile} (h : f.bytes = g.bytes) : f = g := by
  cases f
  cases g
  simpa [RtcFile.bytes] using h

/-- The RTC state can be told from its block. -/
theorem rtcBlock_injective {r r' : Rtc} (h : rtcBlock r = rtcBlock r') : r = r' := by
  obtain ⟨live, latched, counter, time⟩ := r
  obtain ⟨live', latched', counter', time'⟩ := r'
  obtain ⟨h, htime⟩ := List.append_inj' h (by simp)
  obtain ⟨h, hcounter⟩ := List.append_inj' h (by simp)
  obtain ⟨hlive, hlatched⟩ := List.append_inj' h rfl
  obtain rfl := RtcFile.bytes_injective hlive
  obtain rfl := RtcFile.bytes_injective hlatched
  obtain rfl : counter = counter' := leBytes_toNat_injective (n := 4) hcounter
  obtain rfl : time = time' := leBytes_toNat_injective (n := 8) htime
  rfl

/-- What is read from 22 bytes of a store is written as those bytes (45_persistent_store.md R287). -/
theorem rtcBlock_rtcAt (m : Memory) (off : Nat) : rtcBlock (rtcAt m off) = m.readList off 22 := by
  have hcounter : leBytes 4 (rtcAt m off).cycleCounter.toNat = m.readList (off + 10) 4 :=
    leBytes_ofNat_leValue (m.readList_length _ 4)
  have htime : leBytes 8 (rtcAt m off).lastSave.toNat = m.readList (off + 14) 8 :=
    leBytes_ofNat_leValue (m.readList_length _ 8)
  calc rtcBlock (rtcAt m off)
      = m.readList off 10 ++ m.readList (off + 10) 4 ++ m.readList (off + 14) 8 := by
        rw [rtcBlock, hcounter, htime]
        rfl
    _ = m.readList off 22 := by
        rw [← Memory.readList_append m off 10 4, ← Memory.readList_append m off 14 8]

/-- The two files come first, `live` before `latched`. -/
theorem rtcBlock_take_files (r : Rtc) : (rtcBlock r).take 10 = r.live.bytes ++ r.latched.bytes := rfl

theorem rtcBlock_getD_counter (r : Rtc) {j : Nat} (hj : j < 4) :
    (rtcBlock r).getD (10 + j) 0 = r.cycleCounter.extractLsb' (8 * j) 8 := by
  rw [← leBytes_toNat_getD r.cycleCounter 4 hj]
  interval_cases j <;> rfl

theorem rtcBlock_getD_time (r : Rtc) {j : Nat} (hj : j < 8) :
    (rtcBlock r).getD (14 + j) 0 = r.lastSave.extractLsb' (8 * j) 8 := by
  rw [← leBytes_toNat_getD r.lastSave 8 hj]
  interval_cases j <;> rfl

/-- Settles O46: the state read back is the one written, since the 22 bytes that stand there are its block. -/
theorem rtcBlockReadsBackAsWritten : Obligations.RtcBlockReadsBackAsWritten := by
  unfold Obligations.RtcBlockReadsBackAsWritten
  refine ⟨fun r => ⟨rtcBlock_length r, rtcBlock_take_files r, fun j => rtcBlock_getD_counter r,
    fun j => rtcBlock_getD_time r⟩, fun m off r hwf hfit => ?_, rtcBlock_rtcAt⟩
  have hread := Memory.read_writeList hwf off (rtcBlock r) (by rwa [rtcBlock_length])
  rw [rtcBlock_length] at hread
  have hblock : ∀ k, k < 22 → (m.writeList off (rtcBlock r)).read (off + k) = (rtcBlock r).getD k 0 := fun k hk => by
    rw [hread, if_pos (by omega), Nat.add_sub_cancel_left]
  refine ⟨rtcBlock_injective ?_, hblock, fun k hk => by rw [hread, if_neg (by omega)]⟩
  rw [rtcBlock_rtcAt]
  exact Memory.readList_eq _ off (rtcBlock r) hblock

end Sys2Proof.Machine

/-! SUPPORT. What the decoder reads from an address (30_encoding.md R104): the regions are blocks of 8 KiB in order, the last one
of 16 KiB, and bit 12 halves the block of the two ROM bank registers of `WideBank` (44_wide_bank.md R261). -/

namespace Sys2Proof.Machine

/-! ### Region decode -/

/-- The place of a region in the bus space, in blocks of 8 KiB. -/
def regionIndex : Region → Nat
  | .e => 0
  | .b => 1
  | .s => 2
  | .m => 3
  | .x1 => 4
  | .w => 5
  | .x2 => 6

theorem regionIndex_injective : Function.Injective regionIndex := by
  intro r r'
  cases r <;> cases r' <;> simp [regionIndex]

/-- `A[15:13]` is the number of the address's block of 8 KiB. -/
theorem regionField_toNat (a : Addr) : (a.extractLsb' 13 3).toNat = a.toNat / 8192 := by
  have hlt := a.isLt
  rw [BitVec.extractLsb'_toNat, Nat.shiftRight_eq_div_pow]
  omega

/-- Region X2 takes the last two blocks. -/
theorem regionIndex_regionOf (a : Addr) : regionIndex (regionOf a) = min (a.toNat / 8192) 6 := by
  rw [← regionField_toNat, regionOf]
  generalize (a.extractLsb' 13 3).toNat = n
  match n with
  | 0 | 1 | 2 | 3 | 4 | 5 => rfl
  | k + 6 => exact (Nat.min_eq_right (Nat.le_add_left 6 k)).symm

theorem regionOf_eq_iff (a : Addr) (r : Region) : regionOf a = r ↔ min (a.toNat / 8192) 6 = regionIndex r := by
  rw [← regionIndex_regionOf, regionIndex_injective.eq_iff]

/-! ### The ROM bank registers of `WideBank` -/

theorem addrRange_has_iff (r : AddrRange) (a : Addr) : r.has a = true ↔ r.first ≤ a.toNat ∧ a.toNat ≤ r.last := by
  simp [AddrRange.has]

theorem getLsbD_12_eq (a : Addr) : a.getLsbD 12 = decide (a.toNat / 4096 % 2 = 1) :=
  Nat.testBit_eq_decide_div_mod_eq

/-- Bit 12 tells 0x3000-0x3FFF from 0x2000-0x2FFF (decision D11). -/
theorem wideBankTarget_of_b {a : Addr} (h : regionOf a = .b) :
    wideBankTarget a = if a.getLsbD 12 then .romBankHigh else .romBankLow := by
  rw [regionOf_eq_iff, regionIndex] at h
  simp only [wideBankTarget, addrRange_has_iff, wideBankMap, getLsbD_12_eq, decide_eq_true_eq]
  rw [if_neg (by omega)]
  by_cases hhigh : 0x3000 ≤ a.toNat
  · rw [if_neg (by omega), if_pos (by omega), if_pos (by omega)]
  · rw [if_pos (by omega), if_neg (by omega)]

theorem decodeWrite_wideBank_of_b (en : Bool) {a : Addr} (d : Byte) (h : regionOf a = .b) :
    decodeWrite (.wideBank en) a d = if a.getLsbD 12 then .wbWrRomb1 a d else .wbWrRomb0 a d := by
  simp only [decodeWrite, decodeWriteWideBank, h, decodeRegisterWriteWideBank, wideBankTarget_of_b h]
  cases a.getLsbD 12 <;> rfl

/-! ### ROM reads -/

/-- On every variant a read is one of bank 0 exactly in regions E and B, and one of the switchable bank exactly in S and M
(30_encoding.md R105): neither the enable flag nor the window class matters outside the RAM window. -/
theorem decodeRead_mem_rom_iff (m : Mode) (a : Addr) :
    (decodeRead m a ∈ [.roRdRom0 a, .linRdRom0 a, .wcRdRom0 a, .wbRdRom0 a] ↔ regionOf a = .e ∨ regionOf a = .b) ∧
    (decodeRead m a ∈ [.roRdRomx a, .linRdRomx a, .wcRdRomx a, .wbRdRomx a] ↔ regionOf a = .s ∨ regionOf a = .m) := by
  cases m with
  | romOnly =>
    simp only [decodeRead, decodeReadRomOnly]
    cases regionOf a <;> simp
  | linearBank en =>
    simp only [decodeRead, decodeReadLinear]
    cases regionOf a <;> cases en <;> simp
  | wideClock win =>
    simp only [decodeRead, decodeReadWideClock]
    cases regionOf a <;> cases win <;> simp
  | wideBank en =>
    simp only [decodeRead, decodeReadWideBank]
    cases regionOf a <;> cases en <;> simp

/-- Settles O5: each region is the range of its block, and a read is a ROM read exactly in regions E and B, or S and M. -/
theorem regionsAreTheAddressRanges : Obligations.RegionsAreTheAddressRanges := by
  unfold Obligations.RegionsAreTheAddressRanges
  intro a
  have hlt := a.isLt
  refine ⟨?_, ?_, ?_, ?_, ?_, ?_, ?_, fun en d => decodeWrite_wideBank_of_b en d, fun m =>
    ⟨(decodeRead_mem_rom_iff m a).1.trans ?_, (decodeRead_mem_rom_iff m a).2.trans ?_⟩⟩
  all_goals
    simp only [regionOf_eq_iff, regionIndex]
    omega

end Sys2Proof.Machine

/-! SUPPORT. `CON` with a code that `TYPE_TABLE` does not list (00_scope.md R10, 30_encoding.md R110). -/

namespace Sys2Proof.Machine

theorem typeOf_eq_none_iff {table : List (Byte × CartType)} {code : Byte} :
    typeOf table code = none ↔ ∀ e ∈ table, e.1 ≠ code := by
  induction table with
  | nil => simp [typeOf]
  | cons e rest ih =>
    obtain ⟨c, t⟩ := e
    by_cases hc : c = code <;> simp [typeOf, hc, ih]

/-- The type code is looked up before any other test of `CON` (40_dispatch_romonly.md R132). -/
theorem execCon_of_unsupported {s : State} (h : typeOf s.params.typeTable s.port.con.cartridgeType = none) :
    execCon s = raise (.unsupportedType s.port.con.cartridgeType) s := by
  rw [execCon, h]

/-- Settles O39: without an entry for the code `CON` is the fault entry, which sets the phase and the result. -/
theorem unsupportedTypeIsFatal : Obligations.UnsupportedTypeIsFatal := by
  unfold Obligations.UnsupportedTypeIsFatal
  intro s h
  exact execCon_of_unsupported (typeOf_eq_none_iff.2 h)

end Sys2Proof.Machine

/-! SUPPORT. The operations that every variant shares (40_dispatch_romonly.md R131, R134 to R136): the arms of the variants are one
meaning under the first tests, and a variant's registers play no part in it. -/

namespace Sys2Proof.Machine

/-! ### A read of the image on either side of its bound -/

theorem readImage_of_lt {off : Nat} {s : State} (h : off < s.cfg.img.size) :
    readImage off s = .next { s with result := .byte (s.cfg.img.read off) } :=
  (readImage_eq off s).trans (if_pos h)

theorem readImage_of_le {off : Nat} {s : State} (h : s.cfg.img.size ≤ off) :
    readImage off s = .next { s with phase := .faulted (.romIndex off), result := .fault (.romIndex off) } :=
  (readImage_eq off s).trans (if_neg (Nat.not_lt.2 h))

/-! ### One meaning for the arms of the variants -/

section SharedMeaning

variable {s : State} {a : Addr} {d : Byte} {i : Instr}

/-- The offset of a bank 0 read is the address itself (20_memory.md R75). -/
theorem exec_fixedBankRead (hi : i ∈ [Instr.roRdRom0 a, .linRdRom0 a, .wcRdRom0 a, .wbRdRom0 a]) :
    exec i s = whenRow i s (readImage a.toNat s) := by
  simp only [List.mem_cons, List.not_mem_nil, or_false] at hi
  obtain rfl | rfl | rfl | rfl := hi <;> rfl

theorem exec_outsideRead (hi : i ∈ [Instr.roRdExt a, .linRdExt a, .wcRdExt a, .wbRdExt a]) :
    exec i s = whenRow i s (delegateRead a s) := by
  simp only [List.mem_cons, List.not_mem_nil, or_false] at hi
  obtain rfl | rfl | rfl | rfl := hi <;> rfl

theorem exec_outsideWrite (hi : i ∈ [Instr.roWrExt a d, .linWrExt a d, .wcWrExt a d, .wbWrExt a d]) :
    exec i s = whenRow i s (delegateWrite a d s) := by
  simp only [List.mem_cons, List.not_mem_nil, or_false] at hi
  obtain rfl | rfl | rfl | rfl := hi <;> rfl

theorem exec_tickWithoutAClock (hi : i ∈ [Instr.roTick, .linTick, .wbTick]) :
    exec i s = whenRow i s (complete .done s) := by
  simp only [List.mem_cons, List.not_mem_nil, or_false] at hi
  obtain rfl | rfl | rfl := hi <;> rfl

end SharedMeaning

/-! ### The accepted operations -/

/-- Settles O10: an accepted bank 0 read is a read of the image at the address, on either side of the image's size. -/
theorem fixedBankReadReturnsTheImageByte : Obligations.FixedBankReadReturnsTheImageByte := by
  unfold Obligations.FixedBankReadReturnsTheImageByte
  intro s a i hi hacc
  rw [exec_fixedBankRead hi, whenRow_of_accepts hacc]
  exact ⟨readImage_of_lt, readImage_of_le⟩

/-- Settles O11: an accepted outside access is the hand-over of its operands, which sets the result alone. -/
theorem outsideAccessesAreDelegated : Obligations.OutsideAccessesAreDelegated := by
  unfold Obligations.OutsideAccessesAreDelegated
  intro s a d i
  constructor
  · intro hi hacc
    rw [exec_outsideRead hi, whenRow_of_accepts hacc, delegateRead_eq]
  · intro hi hacc
    rw [exec_outsideWrite hi, whenRow_of_accepts hacc, delegateWrite_eq]

/-- Settles O12: an accepted tick of these variants ends at once. -/
theorem tickWithoutAClockChangesNothing : Obligations.TickWithoutAClockChangesNothing := by
  unfold Obligations.TickWithoutAClockChangesNothing
  intro s i hi hacc
  rw [exec_tickWithoutAClock hi, whenRow_of_accepts hacc, complete_eq]

end Sys2Proof.Machine

/-! SUPPORT. The bank registers and the RAM window of `LinearBank` (41_linear_bank.md): which bits of the datum or the address a
register takes, the effective bank as a bit of `romBank` forced to 1, the RAM window on either side of its bound; and the
disabled window it shares with `WideClock` (20_memory.md R84). -/

namespace Sys2Proof.Machine

/-! ### The effective bank -/

section EffectiveBank

variable {r : LinearRegs}

/-- Where the bank select plays no part, the effective bank is the ROM bank register. -/
theorem effBank_eq_romBank (h : r.modeSelect = 1 ∨ r.bankSelect = 0) : effBank r = r.romBank.toNat := by
  obtain h | h := h <;> simp [effBank, h]

/-- The bank select that `LIN.WR.BANKSEL` can write beside 0 is bit 3 of the bank, put over `romBank`. -/
theorem testBit_effBank (hmode : r.modeSelect = 0) (hsel : r.bankSelect = 2) (k : Nat) :
    (effBank r).testBit k = (decide (3 = k) || r.romBank.toNat.testBit k) := by
  have hbit : effBank r = 2 ^ 3 ||| r.romBank.toNat := by simp [effBank, hmode, hsel]
  rw [hbit, Nat.testBit_or, Nat.testBit_two_pow]

theorem effBank_le (h : r.bankSelect = 0 ∨ r.bankSelect = 2) : effBank r ≤ 31 := by
  have hterm : (if r.modeSelect = 0 then r.bankSelect.toNat <<< 2 else 0) < 2 ^ 5 := by
    obtain h | h := h <;> rw [h] <;> split <;> decide
  exact Nat.le_of_lt_succ (Nat.or_lt_two_pow hterm r.romBank.isLt)

end EffectiveBank

/-- Settles O15: the bank select adds nothing, or forces bit 3 of the ROM bank, which is one of its five bits. -/
theorem effectiveBankOfLinearBank : Obligations.EffectiveBankOfLinearBank := by
  unfold Obligations.EffectiveBankOfLinearBank
  intro r
  refine ⟨rfl, fun hsel => ⟨effBank_le hsel, effBank_eq_romBank, fun hmode htwo => ⟨?_, fun k hk => ?_⟩⟩⟩
  · rw [testBit_effBank hmode htwo, decide_eq_true rfl, Bool.true_or]
  · rw [testBit_effBank hmode htwo, decide_eq_false hk.symm, Bool.false_or]

/-! ### The register writes -/

/-- A mask of the register's width adds nothing to the cut to that width. -/
theorem setWidth_and_of_setWidth_eq_allOnes {v w : Nat} (x : BitVec w) {mask : BitVec w}
    (h : mask.setWidth v = BitVec.allOnes v) : (x &&& mask).setWidth v = x.setWidth v := by
  rw [BitVec.setWidth_and, h, BitVec.and_allOnes]

theorem toNat_zeroToOne (d : Byte) : (zeroToOne d).toNat = if d = 0 then 1 else d.toNat := by
  unfold zeroToOne
  split <;> rfl

theorem romBankOfDatumLinear_eq (d : Byte) :
    romBankOfDatumLinear d = BitVec.ofNat 5 ((if d = 0 then 1 else d.toNat) % 32) := by
  rw [romBankOfDatumLinear, setWidth_and_of_setWidth_eq_allOnes _ (by decide), ← toNat_zeroToOne]
  apply BitVec.eq_of_toNat_eq
  simp

/-- The mask of the datum is the power of two that stands at bit 1. -/
theorem bankSelectOfDatum_eq (d : Byte) : bankSelectOfDatum d = if d.getLsbD 1 then 2 else 0 := by
  rw [bankSelectOfDatum, show (0x02 : Byte) = BitVec.twoPow 8 1 from rfl, BitVec.and_twoPow]
  split <;> rfl

theorem modeSelectOfAddress_eq (a : Addr) : modeSelectOfAddress a = BitVec.ofNat 1 (a.toNat % 2) := by
  rw [modeSelectOfAddress, setWidth_and_of_setWidth_eq_allOnes _ (by decide)]
  apply BitVec.eq_of_toNat_eq
  simp

/-- Settles O17: each accepted write replaces one register, by the value that its lemma above writes out. -/
theorem linearBankRegisterWrites : Obligations.LinearBankRegisterWrites := by
  unfold Obligations.LinearBankRegisterWrites
  intro s a d
  rw [← romBankOfDatumLinear_eq, ← bankSelectOfDatum_eq, ← modeSelectOfAddress_eq]
  exact ⟨fun hacc => whenRow_of_accepts hacc _, fun hacc => whenRow_of_accepts hacc _,
    fun hacc => whenRow_of_accepts hacc _⟩

/-! ### The enabled RAM window -/

/-- The offset on `LinearBank` has no bank term (41_linear_bank.md R169). -/
theorem ramOffset_ramBankLinear (a : Addr) : ramOffset ramBankLinear a = a.toNat - 0xA000 := by
  unfold ramOffset ramBankLinear
  omega

theorem exec_linRdRam (a : Addr) (s : State) :
    exec (.linRdRam a) s = whenRow (.linRdRam a) s (readRam (a.toNat - 0xA000) s) := by
  rw [← ramOffset_ramBankLinear]
  rfl

theorem exec_linWrRam (a : Addr) (d : Byte) (s : State) :
    exec (.linWrRam a d) s = whenRow (.linWrRam a d) s (writeRam (a.toNat - 0xA000) d id s) := by
  rw [← ramOffset_ramBankLinear]
  rfl

/-- A write without write-through puts the byte into the RAM alone (41_linear_bank.md R171). The offset is a variable here: with
a concrete one the kernel would compute where the byte is placed. -/
theorem writeRam_id_takesByte {s : State} (hwf : s.ram.wf = true) (hsize : s.ram.size = s.cfg.ramSize) {off : Nat}
    (hoff : off < s.cfg.ramSize) (d : Byte) :
    ∃ ram, writeRam off d id s = .next { s with ram := ram, result := .done } ∧ s.ram.TakesByte ram off d :=
  ⟨s.ram.write off d, (writeRam_eq off d id s).trans (if_pos hoff), Memory.takesByte_write hwf (hsize ▸ hoff) d⟩

/-- Settles O19: below the bound the RAM takes the one byte, and past it both accesses are the fault entry. -/
theorem linearRamWindow : Obligations.LinearRamWindow := by
  unfold Obligations.LinearRamWindow
  intro s a d
  refine ⟨fun hacc hlt => ?_, fun hacc hlt hsize hwf => ?_, fun i hi hacc hge => ?_⟩
  · rw [exec_linRdRam, whenRow_of_accepts hacc, readRam_eq, if_pos hlt]
  · rw [exec_linWrRam, whenRow_of_accepts hacc]
    exact writeRam_id_takesByte hwf hsize hlt d
  · have hpast : ¬ a.toNat - 0xA000 < s.cfg.ramSize := Nat.not_lt.2 hge
    obtain rfl | rfl : i = .linRdRam a ∨ i = .linWrRam a d := by simpa using hi
    · rw [exec_linRdRam, whenRow_of_accepts hacc, readRam_eq, if_neg hpast]
    · rw [exec_linWrRam, whenRow_of_accepts hacc, writeRam_eq, if_neg hpast]

/-! ### The disabled window -/

section DisabledWindow

variable {s : State} {a : Addr} {d : Byte} {i : Instr}

/-- The two variants answer with the same byte 0x00. -/
theorem exec_disabledWindowRead (hi : i ∈ [Instr.linRdRamoff a, .wcRdOff a]) :
    exec i s = whenRow i s (disabledRead a 0x00 s) := by
  obtain rfl | rfl : i = .linRdRamoff a ∨ i = .wcRdOff a := by simpa using hi
  · rfl
  · rfl

theorem exec_disabledWindowWrite (hi : i ∈ [Instr.linWrRamoff a d, .wcWrOff a d]) :
    exec i s = whenRow i s (disabledWrite a d s) := by
  obtain rfl | rfl : i = .linWrRamoff a d ∨ i = .wcWrOff a d := by simpa using hi
  · rfl
  · rfl

end DisabledWindow

/-- Settles O20: an accepted access to the disabled window appends its warning and reads neither RAM size nor selector. -/
theorem disabledWindowOfLinearBankAndWideClock : Obligations.DisabledWindowOfLinearBankAndWideClock := by
  unfold Obligations.DisabledWindowOfLinearBankAndWideClock
  intro s a d i
  constructor
  · intro hi hacc
    rw [exec_disabledWindowRead hi, whenRow_of_accepts hacc, disabledRead_eq]
  · intro hi hacc
    rw [exec_disabledWindowWrite hi, whenRow_of_accepts hacc, disabledWrite_eq]

end Sys2Proof.Machine

/-! SUPPORT. The bank registers and the RAM window of `WideClock` (42_wide_clock_bank.md): the values its register writes take from
the datum, the window class as ranges of the selector, the RAM window on either side of its bound, and an unmapped selector. -/

namespace Sys2Proof.Machine

/-! ### The register writes -/

/-- The enable test reads the low nibble alone (30_encoding.md R107). -/
theorem enables_eq (d : Byte) : enables d = decide (d.toNat % 16 = 10) := by
  have hnibble : (d &&& 0x0F).toNat = d.toNat % 16 := Nat.and_two_pow_sub_one_eq_mod d.toNat 4
  rw [enables, ← hnibble]
  exact decide_eq_decide.2 BitVec.toNat_inj.symm

/-- A mask of the register's width cuts the datum, 0 translated to 1 before, to that width (30_encoding.md R108). -/
theorem setWidth_zeroToOne_and {w : Nat} {mask : Byte} (h : mask.setWidth w = BitVec.allOnes w) (d : Byte) :
    (zeroToOne d &&& mask).setWidth w = BitVec.ofNat w ((if d = 0 then 1 else d.toNat) % 2 ^ w) := by
  rw [setWidth_and_of_setWidth_eq_allOnes _ h, ← toNat_zeroToOne]
  apply BitVec.eq_of_toNat_eq
  simp

theorem romBankOfDatumWideClock_eq (d : Byte) :
    romBankOfDatumWideClock d = BitVec.ofNat 7 ((if d = 0 then 1 else d.toNat) % 128) :=
  setWidth_zeroToOne_and (by decide) d

/-- Settles O22: each accepted write replaces one register, by the value that its lemma above writes out. -/
theorem wideClockBankRegisterWrites : Obligations.WideClockBankRegisterWrites := by
  unfold Obligations.WideClockBankRegisterWrites
  intro s a d
  rw [← enables_eq, ← romBankOfDatumWideClock_eq]
  exact ⟨fun hacc => whenRow_of_accepts hacc _, fun hacc => whenRow_of_accepts hacc _,
    fun hacc => whenRow_of_accepts hacc _⟩

/-! ### The decode of the window -/

section Window

variable {s : State}

theorem window_of_disabled (h : s.wc.ramAndTimerEnabled = false) : s.window = .off := by
  simp [State.window, h]

theorem window_of_enabled (h : s.wc.ramAndTimerEnabled = true) :
    s.window = windowOf (selectorOf s.wc.ramBankOrRtcRegister) := by
  simp [State.window, h]

end Window

/-- The window class as ranges of the selector (42_wide_clock_bank.md R198). -/
theorem windowOf_selectorOf (v : Byte) :
    windowOf (selectorOf v) =
      if v.toNat ≤ 0x03 then .ram else if 0x08 ≤ v.toNat ∧ v.toNat ≤ 0x0C then .rtc else .badSel := by
  obtain ⟨hram, h⟩ | ⟨rfl, h⟩ | ⟨rfl, h⟩ | ⟨rfl, h⟩ | ⟨rfl, h⟩ | ⟨rfl, h⟩ | ⟨hbad, h⟩ := selectorOf_cases v
  case inl => rw [h, if_pos hram, windowOf]
  case inr.inr.inr.inr.inr.inr => rw [h, if_neg (by omega), if_neg (by omega), windowOf]
  all_goals
    rw [h]
    rfl

/-- Each window class has its own read and its own write in region W (30_encoding.md R105). -/
theorem decode_wideClock_of_w {a : Addr} (h : regionOf a = .w) (d : Byte) :
    (decodeRead (.wideClock .off) a = .wcRdOff a ∧ decodeWrite (.wideClock .off) a d = .wcWrOff a d) ∧
    (decodeRead (.wideClock .ram) a = .wcRdRam a ∧ decodeWrite (.wideClock .ram) a d = .wcWrRam a d) ∧
    (decodeRead (.wideClock .rtc) a = .wcRdRtc a ∧ decodeWrite (.wideClock .rtc) a d = .wcWrRtc a d) ∧
    (decodeRead (.wideClock .badSel) a = .wcRdBadsel a ∧ decodeWrite (.wideClock .badSel) a d = .wcWrBadsel a d) := by
  simp [decodeRead, decodeReadWideClock, decodeWrite, decodeWriteWideClock, h]

/-- Settles O23: the mode is the window class, which the enable flag and then the range of the selector decide. -/
theorem wideClockWindowDecode : Obligations.WideClockWindowDecode := by
  unfold Obligations.WideClockWindowDecode
  intro s a d hv hw
  obtain ⟨hoff, hram, hrtc, hbad⟩ := decode_wideClock_of_w hw d
  rw [mode_wideClock hv]
  refine ⟨fun hen => ?_, fun hen hsel => ?_, fun hen hlo hhi => ?_, fun hen hsel => ?_⟩
  · rwa [window_of_disabled hen]
  · rwa [window_of_enabled hen, windowOf_selectorOf, if_pos hsel]
  · rwa [window_of_enabled hen, windowOf_selectorOf, if_neg (by omega), if_pos ⟨hlo, hhi⟩]
  · rwa [window_of_enabled hen, windowOf_selectorOf, if_neg (by omega), if_neg (by omega)]

/-! ### The RAM window -/

section RamWindow

variable {s : State} {a : Addr} {d : Byte} {i : Instr} {off : Nat}

theorem readRam_of_lt (h : off < s.cfg.ramSize) : readRam off s = .next { s with result := .byte (s.ram.read off) } :=
  (readRam_eq off s).trans (if_pos h)

/-- The offset of the obligation is the selector's bank and the address within it (42_wide_clock_bank.md R199). -/
theorem exec_wcRdRam (hoff : off = s.wc.ramBankOrRtcRegister.toNat * 8192 + (a.toNat - 0xA000)) :
    exec (.wcRdRam a) s = whenRow (.wcRdRam a) s (readRam off s) := by
  rw [hoff]
  rfl

theorem exec_wcWrRam (hoff : off = s.wc.ramBankOrRtcRegister.toNat * 8192 + (a.toNat - 0xA000)) :
    exec (.wcWrRam a d) s = whenRow (.wcWrRam a d) s (writeRam off d (mirrorByte off d) s) := by
  rw [hoff]
  rfl

/-- Past the declared size both accesses are the fault entry (20_memory.md R83). -/
theorem exec_wideClockRamAccess_of_le (hoff : off = s.wc.ramBankOrRtcRegister.toNat * 8192 + (a.toNat - 0xA000))
    (hi : i ∈ [Instr.wcRdRam a, .wcWrRam a d]) (hacc : s.Accepts i) (hge : s.cfg.ramSize ≤ off) :
    exec i s = raise (.ramIndex off) s := by
  have hpast : ¬ off < s.cfg.ramSize := Nat.not_lt.2 hge
  obtain rfl | rfl : i = .wcRdRam a ∨ i = .wcWrRam a d := by simpa using hi
  · rw [exec_wcRdRam hoff, whenRow_of_accepts hacc, readRam, if_neg hpast]
  · rw [exec_wcWrRam hoff, whenRow_of_accepts hacc, writeRam, if_neg hpast]

end RamWindow

/-- Settles O24: below the bound the read gives the byte and the write is a write-through one, past it both fault. -/
theorem wideClockRamWindowWritesThrough : Obligations.WideClockRamWindowWritesThrough := by
  unfold Obligations.WideClockRamWindowWritesThrough
  intro s a d off hoff
  refine ⟨fun hacc hlt => ?_, fun hacc hlt hinv hmoved => ?_, fun i hi hacc hge => ?_⟩
  · rw [exec_wcRdRam hoff, whenRow_of_accepts hacc, readRam_of_lt hlt]
  · rw [exec_wcWrRam hoff, whenRow_of_accepts hacc]
    obtain ⟨ram, store, heq, ⟨hsize, hbyte, hrest⟩, hstore⟩ := writeRam_mirrorByte hinv hlt d hmoved
    exact ⟨ram, store, heq, hsize, hbyte, hrest, hstore⟩
  · rw [exec_wideClockRamAccess_of_le hoff hi hacc hge, raise_eq]

/-! ### An unmapped selector -/

theorem exec_wcRdBadsel (a : Addr) (s : State) :
    exec (.wcRdBadsel a) s =
      whenRow (.wcRdBadsel a) s (complete (.byte 0x00) (warn (.badSelectorRead s.wc.ramBankOrRtcRegister) s)) := rfl

theorem exec_wcWrBadsel (a : Addr) (d : Byte) (s : State) :
    exec (.wcWrBadsel a d) s =
      whenRow (.wcWrBadsel a d) s (complete .done (warn (.badSelectorWrite s.wc.ramBankOrRtcRegister d) s)) := rfl

/-- Settles O25: an accepted access with an unmapped selector appends its warning and ends. -/
theorem unmappedSelectorReadsZeroAndDropsWrites : Obligations.UnmappedSelectorReadsZeroAndDropsWrites := by
  unfold Obligations.UnmappedSelectorReadsZeroAndDropsWrites
  intro s a d
  constructor
  · intro hacc
    rw [exec_wcRdBadsel, whenRow_of_accepts hacc, complete_eq, warn_eq]
  · intro hacc
    rw [exec_wcWrBadsel, whenRow_of_accepts hacc, complete_eq, warn_eq]

end Sys2Proof.Machine

/-! SUPPORT. The RTC of `WideClock` (43_rtc.md): the registers in the order of the selector, the carry chain on the numbers the
registers hold, the latch, the tick with the persist of its block, what the operations can move of the RTC, and that no `READ`
depends on the running part of it. -/

namespace Sys2Proof.Machine

/-! ### The registers of a file -/

/-- The selector names the registers in the order of the block, from 0x08 on (10_state.md R28). -/
theorem RtcFile.get_eq_getD_bytes {v : Byte} {r : RtcReg} (h : selectorOf v = .rtc r) (f : RtcFile) :
    f.get r = f.bytes.getD (v.toNat - 0x08) 0 := by
  obtain ⟨-, hv⟩ | ⟨rfl, hv⟩ | ⟨rfl, hv⟩ | ⟨rfl, hv⟩ | ⟨rfl, hv⟩ | ⟨rfl, hv⟩ | ⟨-, hv⟩ := selectorOf_cases v <;>
    rw [hv] at h <;> cases h <;> rfl

theorem State.Accepts.applies {s : State} {i : Instr} (h : s.Accepts i) : i.appliesIn s.mode = true := h.2.2

/-- An accepted RTC read is the read of a register that the selector names. -/
theorem exec_wcRdRtc_of_accepts {s : State} {a : Addr} (hacc : s.Accepts (.wcRdRtc a)) :
    ∃ r, selectorOf s.wc.ramBankOrRtcRegister = .rtc r ∧
      exec (.wcRdRtc a) s = complete (.byte (s.rtc.latched.get r)) s := by
  obtain ⟨r, hr⟩ := selector_of_window_rtc (window_of_applies hacc.applies).2
  exact ⟨r, hr, (whenRow_of_accepts hacc _).trans (withRtcReg_of_rtc hr _)⟩

/-- Settles O27: the register that an accepted read returns stands in the latched file where the selector says. -/
theorem rtcReadReturnsTheLatchedRegister : Obligations.RtcReadReturnsTheLatchedRegister := by
  unfold Obligations.RtcReadReturnsTheLatchedRegister
  intro s a hacc
  obtain ⟨r, hr, hexec⟩ := exec_wcRdRtc_of_accepts hacc
  rw [hexec, complete_eq, RtcFile.get_eq_getD_bytes hr, RtcFile.bytes]

/-! ### The carry chain -/

theorem add_one_eq_ofNat (v : Byte) : v + 1 = BitVec.ofNat 8 (v.toNat + 1) :=
  BitVec.eq_of_toNat_eq (by simp)

/-- The next value of a register is the bound exactly from the value before it, the bound being no wrap of the byte. -/
theorem add_one_eq_ofNat_iff (v : Byte) {n : Nat} (hn : n < 255) : v + 1 = BitVec.ofNat 8 (n + 1) ↔ v.toNat = n := by
  have hv := v.isLt
  rw [add_one_eq_ofNat, ← BitVec.toNat_inj, BitVec.toNat_ofNat, BitVec.toNat_ofNat]
  omega

/-- `AdvanceHour()` on the number the register holds (43_rtc.md R222). -/
theorem advanceHour_eq (f : RtcFile) :
    advanceHour f =
      if f.hours.toNat = 23 then advanceDay { f with hours := 0 }
      else { f with hours := BitVec.ofNat 8 (f.hours.toNat + 1) } := by
  rw [← add_one_eq_ofNat]
  exact if_congr (add_one_eq_ofNat_iff f.hours (by decide)) rfl rfl

/-- `AdvanceMinute()` on the number the register holds (43_rtc.md R223). -/
theorem advanceMinute_eq (f : RtcFile) :
    advanceMinute f =
      if f.minutes.toNat = 59 then advanceHour { f with minutes := 0 }
      else { f with minutes := BitVec.ofNat 8 (f.minutes.toNat + 1) } := by
  rw [← add_one_eq_ofNat]
  exact if_congr (add_one_eq_ofNat_iff f.minutes (by decide)) rfl rfl

/-- `AdvanceSecond()` on the number the register holds (43_rtc.md R224). -/
theorem advanceSecond_eq (f : RtcFile) :
    advanceSecond f =
      if f.seconds.toNat = 59 then advanceMinute { f with seconds := 0 }
      else { f with seconds := BitVec.ofNat 8 (f.seconds.toNat + 1) } := by
  rw [← add_one_eq_ofNat]
  exact if_congr (add_one_eq_ofNat_iff f.seconds (by decide)) rfl rfl

/-- Settles O33: the two sides of each stage's test, the value before the bound and a smaller one. -/
theorem secondsMinutesAndHoursCascade : Obligations.SecondsMinutesAndHoursCascade := by
  unfold Obligations.SecondsMinutesAndHoursCascade
  intro f
  rw [advanceSecond_eq f, advanceMinute_eq f, advanceHour_eq f]
  exact ⟨fun h => if_neg h.ne, fun h => if_pos h, fun h => if_neg h.ne, fun h => if_pos h, fun h => if_neg h.ne,
    fun h => if_pos h⟩

/-! ### The latch -/

/-- A latch write moves the latched file alone, on the 0 to 1 edge (43_rtc.md R230). -/
theorem latchCopy_eq (d : Byte) (s : State) :
    latchCopy d s =
      { s with
        rtc := { s.rtc with latched := if s.wc.latch = 0 ∧ d = 1 then s.rtc.live else s.rtc.latched } } := by
  by_cases hedge : s.wc.latch = 0 ∧ d = 1
  · rw [latchCopy, if_pos hedge, if_pos hedge, State.setRtc]
  · rw [latchCopy, if_neg hedge, if_neg hedge]

theorem exec_wcWrLatch (a : Addr) (d : Byte) (s : State) :
    exec (.wcWrLatch a d) s =
      whenRow (.wcWrLatch a d) s (complete .done ((latchCopy d s).setWc { s.wc with latch := d })) := rfl

/-- Settles O26: an accepted latch write copies on the edge, which touches no other field, and stores the datum. -/
theorem latchWriteCopiesOnTheZeroToOneEdge : Obligations.LatchWriteCopiesOnTheZeroToOneEdge := by
  unfold Obligations.LatchWriteCopiesOnTheZeroToOneEdge
  intro s a d hacc
  rw [exec_wcWrLatch, whenRow_of_accepts hacc, latchCopy_eq, complete_eq, State.setWc]

/-! ### The persist of the block -/

/-- What a complete persist does to the store, where there is one: the block of `r` stands at the offset, and every byte before it
is as it was (45_persistent_store.md R282, R289). -/
def StoreTakesBlock (store store' : Option Memory) (off : Nat) (r : Rtc) : Prop :=
  (store = none → store' = none) ∧
  ∀ st, store = some st → ∃ st', store' = some st' ∧ st'.size = st.size ∧ (∀ k, k < off → st'.read k = st.read k) ∧
    rtcAt st' off = r

/-- Where the block gets to the store whole, the persist sets the timestamp and puts the block behind the RAM, without a warning
(45_persistent_store.md R289, R291). -/
theorem persistRtcBlock_takesBlock (now : Time) {s : State} (hv : s.cfg.variant = .wideClock)
    (hfits : ∀ st, s.store = some st → storeFits s.cfg st = true)
    (hmoved : s.store = none ∨ s.port.transfer.covers 22 = true) :
    ∃ store, persistRtcBlock now s = { s with rtc := { s.rtc with lastSave := now }, store := store } ∧
      StoreTakesBlock s.store store s.cfg.ramSize { s.rtc with lastSave := now } := by
  obtain ⟨hnone, heq⟩ | ⟨st, log, hst, -, hlog, heq⟩ := persistRtcBlock_cases now s
  · refine ⟨none, by rw [heq, ← hnone], fun _ => rfl, fun st hst => ?_⟩
    rw [hnone] at hst
    cases hst
  · have hcovers : s.port.transfer.covers 22 = true := hmoved.resolve_left (by rw [hst]; simp)
    obtain ⟨hwf, hsize⟩ := storeFits_iff.1 (hfits st hst)
    rw [hv] at hsize
    obtain ⟨hblock, -, hrest⟩ :=
      rtcBlockReadsBackAsWritten.2.1 st s.cfg.ramSize { s.rtc with lastSave := now } hwf hsize.ge
    refine ⟨some (st.writeList s.cfg.ramSize (rtcBlock { s.rtc with lastSave := now })), ?_, fun hnone => ?_, ?_⟩
    · rw [heq, hlog hcovers, Transfer.moved_of_covers hcovers, List.take_of_length_le (rtcBlock_length _).le]
    · rw [hst] at hnone
      cases hnone
    · intro st' hst'
      obtain rfl : st = st' := Option.some.inj (hst.symm.trans hst')
      exact ⟨_, rfl, Memory.size_writeList _ _ _, fun k hk => hrest k (.inl hk), hblock⟩

/-! ### The tick -/

/-- Where the block gets to the store whole, an emitted second advances `live`, persists and reduces the counter, in the order that
the parameter names (43_rtc.md R240, R242). -/
theorem emitSecond_takesBlock {s : State} (hv : s.cfg.variant = .wideClock)
    (hfits : ∀ st, s.store = some st → storeFits s.cfg st = true)
    (hmoved : s.store = none ∨ s.port.transfer.covers 22 = true) :
    ∃ store,
      emitSecond s =
        { s with
          rtc :=
            { live := advanceSecond s.rtc.live
              latched := s.rtc.latched
              cycleCounter := BitVec.ofNat 32 (s.rtc.cycleCounter.toNat % s.params.tickFreq)
              lastSave := s.port.now }
          store := store } ∧
      StoreTakesBlock s.store store s.cfg.ramSize
        { live := advanceSecond s.rtc.live
          latched := s.rtc.latched
          cycleCounter := BitVec.ofNat 32
            (if s.params.persistBeforeReduce then s.rtc.cycleCounter.toNat
              else s.rtc.cycleCounter.toNat % s.params.tickFreq)
          lastSave := s.port.now } := by
  unfold emitSecond
  cases s.params.persistBeforeReduce with
  | true =>
    obtain ⟨store, heq, htakes⟩ := persistRtcBlock_takesBlock s.port.now
      (s := s.setRtc { s.rtc with live := advanceSecond s.rtc.live }) hv hfits hmoved
    refine ⟨store, ?_, ?_⟩
    · rw [if_pos rfl, heq]
      rfl
    · rw [if_pos rfl, BitVec.ofNat_toNat, BitVec.setWidth_eq]
      exact htakes
  | false =>
    exact persistRtcBlock_takesBlock s.port.now
      (s := reduceCounter (s.setRtc { s.rtc with live := advanceSecond s.rtc.live })) hv hfits hmoved

section Tick

variable {s : State} {sum : Nat}

/-- The counter takes the cycles modulo 2^32 (43_rtc.md R240, decision D16). -/
theorem accumulate_eq (hsum : sum = (s.rtc.cycleCounter.toNat + s.port.cyclesElapsed.toNat) % 2 ^ 32) :
    accumulate s = { s with rtc := { s.rtc with cycleCounter := BitVec.ofNat 32 sum } } := by
  have hcounter : s.rtc.cycleCounter + s.port.cyclesElapsed = BitVec.ofNat 32 sum :=
    BitVec.eq_of_toNat_eq (by simp [hsum])
  rw [accumulate, hcounter]
  rfl

theorem toNat_counter_accumulate (hsum : sum = (s.rtc.cycleCounter.toNat + s.port.cyclesElapsed.toNat) % 2 ^ 32) :
    (accumulate s).rtc.cycleCounter.toNat = sum :=
  (BitVec.toNat_add _ _).trans hsum.symm

/-- After the accumulation a second is due exactly when the clock runs and the sum has reached the tick frequency. -/
theorem secondDue_accumulate (hsum : sum = (s.rtc.cycleCounter.toNat + s.port.cyclesElapsed.toNat) % 2 ^ 32) :
    secondDue (accumulate s) = true ↔ s.rtc.live.dayHigh.getLsbD 6 = false ∧ s.params.tickFreq ≤ sum := by
  rw [secondDue, toNat_counter_accumulate hsum, Bool.and_eq_true, Bool.not_eq_true', decide_eq_true_eq]
  rfl

theorem exec_wcTick (s : State) :
    exec .wcTick s =
      whenRow .wcTick s
        (complete .done (if secondDue (accumulate s) then emitSecond (accumulate s) else accumulate s)) := rfl

/-- A tick without a second due only accumulates (43_rtc.md R240, R241). -/
theorem exec_wcTick_of_not_due (hacc : s.Accepts .wcTick)
    (hsum : sum = (s.rtc.cycleCounter.toNat + s.port.cyclesElapsed.toNat) % 2 ^ 32)
    (hnot : s.rtc.live.dayHigh.getLsbD 6 = true ∨ sum < s.params.tickFreq) :
    exec .wcTick s =
      .next { s with rtc := { s.rtc with cycleCounter := BitVec.ofNat 32 sum }, result := .done } := by
  have hdue : ¬ secondDue (accumulate s) = true := by
    rw [secondDue_accumulate hsum]
    rintro ⟨hrun, hreached⟩
    obtain hhalt | hbelow := hnot
    · rw [hrun] at hhalt
      cases hhalt
    · exact absurd hreached (Nat.not_le.2 hbelow)
  rw [exec_wcTick, whenRow_of_accepts hacc, if_neg hdue, accumulate_eq hsum, complete_eq]

/-- A tick with a second due emits one second (43_rtc.md R240). -/
theorem exec_wcTick_of_due (hacc : s.Accepts .wcTick)
    (hsum : sum = (s.rtc.cycleCounter.toNat + s.port.cyclesElapsed.toNat) % 2 ^ 32)
    (hrun : s.rtc.live.dayHigh.getLsbD 6 = false) (hreached : s.params.tickFreq ≤ sum) :
    exec .wcTick s = complete .done (emitSecond (accumulate s)) := by
  rw [exec_wcTick, whenRow_of_accepts hacc, if_pos ((secondDue_accumulate hsum).2 ⟨hrun, hreached⟩)]

end Tick

/-- Settles O30: a halted clock has no second due, and a sum below 2^32 does not wrap. -/
theorem haltedTickOnlyAccumulates : Obligations.HaltedTickOnlyAccumulates := by
  unfold Obligations.HaltedTickOnlyAccumulates
  intro s hacc hhalt hlt
  exact ⟨_, exec_wcTick_of_not_due hacc (Nat.mod_eq_of_lt hlt).symm (.inl hhalt),
    (BitVec.toNat_ofNat _ _).trans (Nat.mod_eq_of_lt hlt)⟩

/-- Settles O31: without a second due the tick only accumulates; with one it emits a second from the accumulated state. -/
theorem tickEmitsAtMostOneSecond : Obligations.TickEmitsAtMostOneSecond := by
  unfold Obligations.TickEmitsAtMostOneSecond
  intro s sum hacc hinv hsum
  refine ⟨exec_wcTick_of_not_due hacc hsum, fun hrun hreached hmoved => ?_⟩
  obtain ⟨store, heq, htakes⟩ :=
    emitSecond_takesBlock (s := accumulate s) (wideClock_of_applies hacc.applies) hinv.storeOk hmoved
  rw [toNat_counter_accumulate hsum] at heq htakes
  exact ⟨store, (exec_wcTick_of_due hacc hsum hrun hreached).trans (congrArg (complete .done) heq), htakes⟩

/-! ### What moves the RTC -/

@[simp] theorem latched_persistRtcBlock (now : Time) (s : State) :
    (persistRtcBlock now s).rtc.latched = s.rtc.latched := by
  obtain ⟨-, h⟩ | ⟨st, log, -, -, -, h⟩ := persistRtcBlock_cases now s <;> rw [h]

@[simp] theorem latched_accumulate (s : State) : (accumulate s).rtc.latched = s.rtc.latched := rfl
@[simp] theorem latched_reduceCounter (s : State) : (reduceCounter s).rtc.latched = s.rtc.latched := rfl

@[simp] theorem latched_emitSecond (s : State) : (emitSecond s).rtc.latched = s.rtc.latched := by
  simp only [emitSecond]
  split <;> simp

/-- The offset stays a variable here: with a concrete one the kernel would compute where the byte is placed. -/
theorem writeRam_keeps_rtc {off : Nat} {d : Byte} {mirror : State → State} {s : State}
    (h : ∀ u, (mirror u).rtc = u.rtc) : EndsIn (fun t => t.rtc = s.rtc) (writeRam off d mirror s) :=
  endsIn_writeRam (h (putRam off d s)) fun _ => rfl

/-- The operations that can move the RTC (43_rtc.md R220, R225, R244). -/
def movesRtc : Instr → Bool
  | .con | .wcWrRtc _ _ | .wcTick | .wcWrLatch _ _ => true
  | _ => false

/-- Every other operation keeps the whole RTC. -/
theorem exec_keeps_rtc {i : Instr} (hi : movesRtc i = false) (s : State) : EndsIn (fun t => t.rtc = s.rtc) (exec i s) := by
  cases i with
  | con | wcWrRtc | wcTick | wcWrLatch => cases hi
  | linWrRam => exact endsIn_whenRow (writeRam_keeps_rtc fun _ => rfl)
  | wcWrRam | wbWrRam => exact endsIn_whenRow (writeRam_keeps_rtc (rtc_mirrorByte _ _))
  | linWrRamen => exact endsIn_whenRow (endsIn_complete (by simp))
  | _ => exact (exec_keeps_contents rfl s).mono fun _ ht => (State.contents_eq_iff.1 ht).2.2

/-- A latch write moves the latched file alone (43_rtc.md R230). -/
theorem execWcWrLatch_rtc (a : Addr) (d : Byte) (s : State) :
    EndsIn (fun t => t.rtc = { s.rtc with latched := t.rtc.latched }) (execWcWrLatch a d s) :=
  endsIn_whenRow (endsIn_complete (by simp [latchCopy_eq]))

/-- A tick never moves the latched file (43_rtc.md R225). -/
theorem execWcTick_keeps_latched (s : State) : EndsIn (fun t => t.rtc.latched = s.rtc.latched) (execWcTick s) :=
  endsIn_whenRow (endsIn_complete (by split <;> simp))

/-- Settles O52: of the four operations that can move the RTC, a latch write moves the latched file alone and a tick never. -/
theorem theRtcMovesOnlyByItsOperations : Obligations.TheRtcMovesOnlyByItsOperations := by
  unfold Obligations.TheRtcMovesOnlyByItsOperations
  intro i s t h hcon
  cases i with
  | con => exact absurd rfl hcon
  | wcWrRtc => simp [Instr.mnemonic]
  | wcTick => exact ⟨fun _ => by simp [Instr.mnemonic], fun hne => absurd (execWcTick_keeps_latched s t h) hne⟩
  | wcWrLatch a d =>
    refine ⟨fun hne => ?_, fun _ => by simp [Instr.mnemonic]⟩
    rw [execWcWrLatch_rtc a d s t h] at hne
    simp at hne
  | _ =>
    rw [exec_keeps_rtc rfl s t h]
    simp

/-! ### Reads and the running clock -/

/-- The state with another running clock: `live`, the counter and the timestamp; the latched file stays. -/
def State.withClock (live : RtcFile) (counter : BitVec 32) (stamp : Time) (s : State) : State :=
  s.setRtc { live := live, latched := s.rtc.latched, cycleCounter := counter, lastSave := stamp }

/-- An outcome with its next state, if it has one, replaced. -/
def mapNext (g : State → State) : Out → Out
  | .next s => .next (g s)
  | .fault f => .fault f
  | .refused r => .refused r

/-- The first tests of an operation see the phase and the mode alone. -/
theorem whenRow_mapNext {g : State → State} {i : Instr} {s : State} (hphase : (g s).phase = s.phase)
    (hmode : (g s).mode = s.mode) (m : Out) : whenRow i (g s) (mapNext g m) = mapNext g (whenRow i s m) := by
  unfold whenRow
  rw [hphase, hmode]
  split
  · split <;> rfl
  · rfl

section WithClock

variable {live : RtcFile} {counter : BitVec 32} {stamp : Time} {s : State}

theorem whenRow_withClock {i : Instr} {m m' : Out} (h : m' = mapNext (State.withClock live counter stamp) m) :
    whenRow i (s.withClock live counter stamp) m' = mapNext (State.withClock live counter stamp) (whenRow i s m) :=
  h ▸ whenRow_mapNext rfl rfl m

theorem readImage_withClock (off : Nat) :
    readImage off (s.withClock live counter stamp) = mapNext (State.withClock live counter stamp) (readImage off s) := by
  rw [readImage_eq off s, apply_ite (mapNext _)]
  rfl

theorem readRam_withClock (off : Nat) :
    readRam off (s.withClock live counter stamp) = mapNext (State.withClock live counter stamp) (readRam off s) := by
  rw [readRam_eq off s, apply_ite (mapNext _)]
  rfl

/-- The selected register of the latched file, which stays (43_rtc.md R232). -/
theorem readLatched_withClock :
    (withRtcReg (s.withClock live counter stamp) fun r =>
        complete (.byte ((s.withClock live counter stamp).rtc.latched.get r)) (s.withClock live counter stamp)) =
      mapNext (State.withClock live counter stamp)
        (withRtcReg s fun r => complete (.byte (s.rtc.latched.get r)) s) := by
  have hwc : (s.withClock live counter stamp).wc = s.wc := rfl
  unfold withRtcReg
  rw [hwc]
  cases selectorOf s.wc.ramBankOrRtcRegister <;> rfl

/-- A `READ` is the same operation with another running clock (10_state.md R41). -/
theorem exec_withClock {i : Instr} (hi : isRead i = true) :
    exec i (s.withClock live counter stamp) = mapNext (State.withClock live counter stamp) (exec i s) := by
  cases i with
  | roRdRom0 | roRdRomx | linRdRom0 | linRdRomx | wcRdRom0 | wcRdRomx | wbRdRom0 | wbRdRomx =>
    exact whenRow_withClock (readImage_withClock _)
  | linRdRam | wcRdRam | wbRdRam => exact whenRow_withClock (readRam_withClock _)
  | wcRdRtc => exact whenRow_withClock readLatched_withClock
  | roRdWin | linRdRamoff | wcRdOff | wbRdRamoff | wcRdBadsel | roRdExt | linRdExt | wcRdExt | wbRdExt =>
    exact whenRow_withClock rfl
  | _ => simp [isRead, encode] at hi

end WithClock

/-- Settles O58: a read with another running clock is the read, in a next state with that clock. -/
theorem readsDoNotSeeTheLiveClock : Obligations.ReadsDoNotSeeTheLiveClock := by
  unfold Obligations.ReadsDoNotSeeTheLiveClock
  intro i s t live counter stamp hread h
  calc exec i (s.withClock live counter stamp)
      = mapNext (State.withClock live counter stamp) (exec i s) := exec_withClock hread
    _ = .next (t.withClock live counter stamp) := by rw [h, mapNext]

end Sys2Proof.Machine

/-! SUPPORT. The RAM bank register and the disabled window of `WideBank` (44_wide_bank.md): which data the register takes, and what
an access to the disabled window answers. -/

namespace Sys2Proof.Machine

/-! ### The RAM bank register -/

/-- A datum in range gives its low two bits (44_wide_bank.md R266). -/
theorem ramBankAfter_of_le (old : BitVec 2) {d : Byte} (h : d.toNat ≤ 0x0F) :
    ramBankAfter old d = BitVec.ofNat 2 (d.toNat % 4) := by
  have hle : d ≤ 0x0F := h
  rw [ramBankAfter, if_pos hle, setWidth_and_of_setWidth_eq_allOnes _ (by decide)]
  apply BitVec.eq_of_toNat_eq
  simp

theorem ramBankAfter_of_lt (old : BitVec 2) {d : Byte} (h : 0x0F < d.toNat) : ramBankAfter old d = old :=
  if_neg (Nat.not_le.2 h)

theorem exec_wbWrRamb (a : Addr) (d : Byte) (s : State) :
    exec (.wbWrRamb a d) s =
      whenRow (.wbWrRamb a d) s (complete .done (s.setWb { s.wb with ramBank := ramBankAfter s.wb.ramBank d })) := rfl

/-- Settles O37: an accepted write ends with the register that its datum, on either side of the bound, gives. -/
theorem wideBankRamBankWrite : Obligations.WideBankRamBankWrite := by
  unfold Obligations.WideBankRamBankWrite
  intro s a d hacc
  rw [exec_wbWrRamb, whenRow_of_accepts hacc, complete_eq, State.setWb]
  constructor
  · intro hle
    rw [ramBankAfter_of_le _ hle]
  · intro hlt
    rw [ramBankAfter_of_lt _ hlt]

/-! ### The disabled window of `WideBank` -/

theorem exec_wbRdRamoff (a : Addr) (s : State) :
    exec (.wbRdRamoff a) s =
      whenRow (.wbRdRamoff a) s (disabledRead a (sentinelByte s.params.disabledReadWideBank) s) := rfl

theorem exec_wbWrRamoff (a : Addr) (d : Byte) (s : State) :
    exec (.wbWrRamoff a d) s = whenRow (.wbWrRamoff a d) s (disabledWrite a d s) := rfl

/-- Settles O21: an accepted read answers with the byte of the parameter, and each access appends its warning and ends. -/
theorem disabledWindowOfWideBank : Obligations.DisabledWindowOfWideBank := by
  unfold Obligations.DisabledWindowOfWideBank
  intro s a d
  constructor
  · intro hacc
    rw [exec_wbRdRamoff, whenRow_of_accepts hacc]
    exact disabledRead_eq a _ s
  · intro hacc
    rw [exec_wbWrRamoff, whenRow_of_accepts hacc, disabledWrite_eq]

end Sys2Proof.Machine

/-! SUPPORT. The end of a session and the save file the next one finds (45_persistent_store.md R280, R286): `FIN` saves nothing, and
no part of `CON` but the search for the save file looks at the operand that says where the file comes from. -/

namespace Sys2Proof.Machine

/-! ### The end of a session -/

/-- `FIN` is an operation of every mode. -/
theorem accepts_fin {s : State} (h : s.phase = .live) : s.Accepts .fin := ⟨h, rfl, rfl⟩

theorem exec_fin (s : State) : exec .fin s = whenRow .fin s (complete .done (s.setPhase .finalized)) := rfl

/-- Settles O13: closing the store changes no byte of it, so only the phase and the result are new. -/
theorem finalizeSavesNothing : Obligations.FinalizeSavesNothing := by
  unfold Obligations.FinalizeSavesNothing
  intro s hlive
  rw [exec_fin, whenRow_of_accepts (accepts_fin hlive), complete_eq, State.setPhase]

/-! ### The operand that names the save file -/

/-- The state with another save-file operand at the port. -/
def State.withFile0 (x : SaveFile) (s : State) : State :=
  s.setPort { s.port with con := { s.port.con with file0 := x } }

section WithFile0

variable {x : SaveFile} {s : State} {t : CartType}

/-- With the same file found, the new instance is the same but for the operand. -/
theorem resetInstance_withFile0 (h : saveFileFound (s.withFile0 x) = saveFileFound s) :
    resetInstance t (s.withFile0 x) = (resetInstance t s).withFile0 x := by
  simp only [resetInstance, h]
  rfl

theorem saveFileProblem_withFile0 (h : saveFileFound (s.withFile0 x) = saveFileFound s) (f : Memory) :
    saveFileProblem t f (s.withFile0 x) = saveFileProblem t f s := by
  simp only [saveFileProblem, resetInstance_withFile0 h]
  rfl

theorem conProblem_withFile0 (h : saveFileFound (s.withFile0 x) = saveFileFound s) :
    conProblem t (s.withFile0 x) = conProblem t s := by
  simp only [conProblem, h, saveFileProblem_withFile0 h]
  rfl

theorem notePartial_withFile0 (tr : Transfer) (len : Nat) :
    notePartial tr len (s.withFile0 x) = (notePartial tr len s).withFile0 x := by
  rw [notePartial_eq, notePartial_eq]
  rfl

/-- `open` loads the file of the configuration, not the operand. -/
theorem openStore_withFile0 : openStore (s.withFile0 x) = (openStore s).withFile0 x := by
  have hcfg : (s.withFile0 x).cfg = s.cfg := rfl
  unfold openStore
  rw [hcfg]
  split
  · rw [← notePartial_withFile0]
    cases s.cfg.file0 with
    | none => rfl
    | some f =>
      simp only [loadState_eq]
      rfl
  · rfl

theorem persistRtcBlock_withFile0 (now : Time) :
    persistRtcBlock now (s.withFile0 x) = (persistRtcBlock now s).withFile0 x := by
  have hstore : ((s.withFile0 x).setRtc { (s.withFile0 x).rtc with lastSave := now }).store = s.store := rfl
  have hstore' : (s.setRtc { s.rtc with lastSave := now }).store = s.store := rfl
  unfold persistRtcBlock
  simp only [hstore, hstore']
  cases s.store with
  | none => rfl
  | some st =>
    simp only [← notePartial_withFile0]
    rfl

theorem fastForwardIfClocked_withFile0 :
    fastForwardIfClocked (s.withFile0 x) = (fastForwardIfClocked s).withFile0 x := by
  have hcfg : (s.withFile0 x).cfg = s.cfg := rfl
  unfold fastForwardIfClocked
  rw [hcfg]
  split
  · exact persistRtcBlock_withFile0 (s := s.setRtc _) s.port.now
  · rfl

/-- `CON` depends on the operand through the file it finds alone. -/
theorem execCon_withFile0 (h : saveFileFound (s.withFile0 x) = saveFileFound s) :
    execCon (s.withFile0 x) = mapNext (State.withFile0 x) (execCon s) := by
  have htype : typeOf (s.withFile0 x).params.typeTable (s.withFile0 x).port.con.cartridgeType =
      typeOf s.params.typeTable s.port.con.cartridgeType := rfl
  unfold execCon
  rw [htype]
  cases typeOf s.params.typeTable s.port.con.cartridgeType with
  | none => rfl
  | some t =>
    simp only [conProblem_withFile0 h]
    cases conProblem t s with
    | some r => rfl
    | none =>
      simp only [resetInstance_withFile0 h, openStore_withFile0, fastForwardIfClocked_withFile0]
      rfl

end WithFile0

theorem mapNext_eq_next {g : State → State} {o : Out} {c : State} (h : mapNext g o = .next c) :
    ∃ u, o = .next u ∧ c = g u := by
  cases o with
  | next u => exact ⟨u, rfl, (Host.Outcome.next.inj h).symm⟩
  | fault f => cases h
  | refused r => cases h

theorem mapNext_eq_refused {g : State → State} {o : Out} {r : Refusal} (h : mapNext g o = .refused r) :
    o = .refused r := by
  cases o with
  | next u => cases h
  | fault f => cases h
  | refused r' => exact h

/-- A store left behind is found as it is given in bytes, and where there is none no file is found. -/
theorem saveFileFound_of_leftBehind {s : State} {given : SaveFile} (h : s.port.con.file0 = .leftBehind)
    (hgiven : given = (match s.store with | some st => .bytes st | none => .absent)) :
    saveFileFound (s.withFile0 given) = saveFileFound s := by
  have hfound : saveFileFound s = s.store := by simp only [saveFileFound, h]
  rw [hfound, hgiven]
  cases s.store <;> rfl

/-- Settles O45: both operands make `CON` find the same file, and it leaves the operand as it was. -/
theorem leftBehindFileIsThePreviousStore : Obligations.LeftBehindFileIsThePreviousStore := by
  unfold Obligations.LeftBehindFileIsThePreviousStore
  intro s given hleft hgiven
  have hcon : exec .con (s.withFile0 given) = mapNext (State.withFile0 given) (exec .con s) :=
    execCon_withFile0 (saveFileFound_of_leftBehind hleft hgiven)
  refine ⟨fun c hc => ?_, fun r hr => mapNext_eq_refused (hcon.symm.trans hr)⟩
  obtain ⟨u, hu, rfl⟩ := mapNext_eq_next (hcon.symm.trans hc)
  obtain ⟨-, hport, -⟩ := execCon_keeps_inputs s u hu
  rw [hu, ← hport]
  rfl

end Sys2Proof.Machine

/-! SUPPORT. Transfers to and from the store that may fall short (45_persistent_store.md R288, R289, R291): arrays with the same bytes,
the block read from a store and the snapshot, and the persist of only the first bytes of the block. -/

namespace Sys2Proof.Machine

/-! ### Arrays with the same bytes -/

theorem Memory.canonicalFrom_cons {lo k : Nat} {v : Byte} {t : List Host.Cell} :
    Memory.canonicalFrom lo ((k, v) :: t) = true ↔ lo ≤ k ∧ v ≠ 0 ∧ Memory.canonicalFrom (k + 1) t = true := by
  simp only [Memory.canonicalFrom, Bool.and_eq_true, decide_eq_true_eq, and_assoc]
  rfl

/-- The first listed offset of a canonical list lies below no offset that another list with the same bytes lists first. -/
theorem Memory.head_le_of_lookup_eq {lo k j : Nat} {v w : Byte} {t u : List Host.Cell}
    (hx : Memory.canonicalFrom lo ((k, v) :: t) = true) (hy : Memory.canonicalFrom lo ((j, w) :: u) = true)
    (h : ∀ i, Memory.lookup ((k, v) :: t) i = Memory.lookup ((j, w) :: u) i) : j ≤ k := by
  obtain ⟨-, hv, -⟩ := Memory.canonicalFrom_cons.1 hx
  obtain ⟨-, hw, hu⟩ := Memory.canonicalFrom_cons.1 hy
  by_contra hlt
  have hbelow := Memory.lookup_below (Memory.canonicalFrom_cons.2 ⟨Nat.le_refl j, hw, hu⟩) (Nat.lt_of_not_le hlt)
  rw [← h k, Memory.lookup_cons, if_pos rfl] at hbelow
  exact hv hbelow

/-- The canonical form is unique (log entry 21). -/
theorem Memory.cells_eq_of_lookup_eq {lo : Nat} {xs ys : List Host.Cell} (hx : Memory.canonicalFrom lo xs = true)
    (hy : Memory.canonicalFrom lo ys = true) (h : ∀ i, Memory.lookup xs i = Memory.lookup ys i) : xs = ys := by
  induction xs generalizing lo ys with
  | nil =>
    cases ys with
    | nil => rfl
    | cons c u =>
      have hhead := h c.1
      rw [Memory.lookup_cons, if_pos rfl] at hhead
      exact absurd hhead.symm (Memory.canonicalFrom_cons.1 hy).2.1
  | cons c t ih =>
    obtain ⟨k, v⟩ := c
    cases ys with
    | nil =>
      have hhead := h k
      rw [Memory.lookup_cons, if_pos rfl] at hhead
      exact absurd hhead (Memory.canonicalFrom_cons.1 hx).2.1
    | cons d u =>
      obtain ⟨j, w⟩ := d
      obtain rfl : k = j := Nat.le_antisymm (Memory.head_le_of_lookup_eq hy hx fun i => (h i).symm)
        (Memory.head_le_of_lookup_eq hx hy h)
      obtain ⟨-, -, ht⟩ := Memory.canonicalFrom_cons.1 hx
      obtain ⟨-, -, hu⟩ := Memory.canonicalFrom_cons.1 hy
      have hvw := h k
      rw [Memory.lookup_cons, Memory.lookup_cons, if_pos rfl, if_pos rfl] at hvw
      rw [hvw, ih ht hu fun i => ?_]
      by_cases hi : k = i
      · rw [Memory.lookup_below ht (by omega), Memory.lookup_below hu (by omega)]
      · have hi' := h i
        rwa [Memory.lookup_cons, Memory.lookup_cons, if_neg hi, if_neg hi] at hi'

/-- Past its size a canonical array gives the blank byte. -/
theorem Memory.read_of_size_le {m : Memory} (h : m.wf = true) {k : Nat} (hk : m.size ≤ k) : m.read k = 0 := by
  have hnot : ∀ c ∈ m.cells, c.1 ≠ k := fun c hc => ((Memory.lt_size_of_wf h hc).trans_le hk).ne
  rw [Memory.read, ← List.append_nil m.cells, Memory.lookup_append_of_not_mem m.cells [] k hnot, Memory.lookup_nil]

/-- Canonical arrays of one size with the same bytes are the same array. -/
theorem Memory.eq_of_read_eq {m m' : Memory} (h : m.wf = true) (h' : m'.wf = true) (hsize : m.size = m'.size)
    (hread : ∀ k, k < m.size → m.read k = m'.read k) : m = m' := by
  have hcells : m.cells = m'.cells :=
    Memory.cells_eq_of_lookup_eq (Memory.canonical_of_wf h) (Memory.canonical_of_wf h') fun k => by
      by_cases hk : k < m.size
      · exact hread k hk
      · exact (Memory.read_of_size_le h (Nat.le_of_not_lt hk)).trans
          (Memory.read_of_size_le h' (by omega)).symm
  exact congrArg₂ Memory.mk hsize hcells

/-! ### The block read from a store -/

theorem Memory.getD_readList (m : Memory) (off : Nat) {n j : Nat} (hj : j < n) :
    (m.readList off n).getD j 0 = m.read (off + j) := by
  induction n generalizing off j with
  | zero => omega
  | succ n ih =>
    cases j with
    | zero => rfl
    | succ j => rw [Memory.readList, List.getD_cons_succ, ih _ (by omega), Nat.add_assoc, Nat.add_comm 1]

/-- Where the 22 bytes of a block stand, its RTC state is read. -/
theorem rtcAt_eq_of_block {m : Memory} {off : Nat} {r : Rtc}
    (h : ∀ j, j < 22 → m.read (off + j) = (rtcBlock r).getD j 0) : rtcAt m off = r :=
  rtcBlock_injective ((rtcBlock_rtcAt m off).trans (Memory.readList_eq m off (rtcBlock r) h))

theorem rtcAt_congr {m m' : Memory} {off : Nat} (h : ∀ j, j < 22 → m.read (off + j) = m'.read (off + j)) :
    rtcAt m off = rtcAt m' off :=
  rtcAt_eq_of_block fun j hj => by rw [h j hj, rtcBlock_rtcAt, Memory.getD_readList m' off hj]

/-- The snapshot is the RAM and, on `WideClock`, the block behind it (45_persistent_store.md R288). -/
theorem read_snapshot {s : State} (h : s.ram.wf = true) (hsize : s.ram.size = s.cfg.ramSize) {k : Nat}
    (hk : k < s.storeSize) :
    (snapshot s).read k =
      if k < s.cfg.ramSize then s.ram.read k else (rtcBlock s.rtc).getD (k - s.cfg.ramSize) 0 := by
  split
  · next hram => exact read_snapshot_ram h hsize hram
  · next hram =>
    unfold State.storeSize at hk
    unfold snapshot
    cases hv : s.cfg.variant with
    | romOnly | linearBank | wideBank =>
      rw [hv] at hk
      exact absurd hk hram
    | wideClock =>
      rw [hv] at hk
      have hfit : s.cfg.ramSize + (rtcBlock s.rtc).length ≤ storeSizeOf .wideClock s.cfg.ramSize := by
        rw [rtcBlock_length]
        rfl
      have hgrown : (Memory.mk (storeSizeOf .wideClock s.cfg.ramSize) s.ram.cells).wf = true :=
        Memory.wf_grow h (by rw [hsize]; exact le_storeSizeOf _ _)
      have hread := Memory.read_writeList hgrown s.cfg.ramSize (rtcBlock s.rtc) hfit k
      rwa [rtcBlock_length, if_pos ⟨Nat.le_of_not_lt hram, hk⟩] at hread

/-! ### The persist of the first bytes of the block -/

/-- What a transfer of the given length leaves in the log: one note when it falls short (45_persistent_store.md R291). -/
def Transfer.note (tr : Transfer) (len : Nat) : List Warning := if tr.moved len < len then [.partialIo] else []

theorem Transfer.note_of_covers {tr : Transfer} {len : Nat} (h : tr.covers len = true) : tr.note len = [] := by
  simp [Transfer.note, Transfer.moved_of_covers h]

theorem notePartial_eq_append_note (tr : Transfer) (len : Nat) (s : State) :
    notePartial tr len s = { s with log := s.log ++ tr.note len } := by
  rw [notePartial_eq, Transfer.note]
  split
  · rfl
  · rw [List.append_nil]

/-- A store with as much of the block of `r` at the offset as the transfer moves. -/
def persistedStore (st : Memory) (off : Nat) (r : Rtc) (tr : Transfer) : Memory :=
  st.writeList off ((rtcBlock r).take (tr.moved 22))

@[simp] theorem size_persistedStore (st : Memory) (off : Nat) (r : Rtc) (tr : Transfer) :
    (persistedStore st off r tr).size = st.size := Memory.size_writeList _ _ _

theorem read_persistedStore {st : Memory} (h : st.wf = true) {off : Nat} (hfit : off + 22 ≤ st.size) (r : Rtc)
    (tr : Transfer) (k : Nat) :
    (persistedStore st off r tr).read k =
      if off ≤ k ∧ k < off + tr.moved 22 then (rtcBlock r).getD (k - off) 0 else st.read k := by
  have hmoved := tr.moved_le 22
  have hlen : ((rtcBlock r).take (tr.moved 22)).length = tr.moved 22 := by
    rw [List.length_take, rtcBlock_length, Nat.min_eq_left hmoved]
  rw [persistedStore, Memory.read_writeList h _ _ (by omega), hlen]
  split
  · next hin => rw [List.getD_eq_getElem?_getD, List.getElem?_take_of_lt (by omega), List.getD_eq_getElem?_getD]
  · rfl

/-- A persist with a store sets the timestamp, and the store takes what is moved of the block (45_persistent_store.md R289). -/
theorem persistRtcBlock_of_store (now : Time) {s : State} {st : Memory} (hst : s.store = some st) :
    persistRtcBlock now s =
      { s with
        rtc := { s.rtc with lastSave := now }
        store := some (persistedStore st s.cfg.ramSize { s.rtc with lastSave := now } s.port.transfer)
        log := s.log ++ s.port.transfer.note 22 } := by
  simp only [persistRtcBlock, State.setRtc_store, hst, notePartial_eq_append_note]
  rfl

/-- An emitted second with a store advances, persists and reduces, the last two in the order that the parameter names (43_rtc.md
R240, R242). -/
theorem emitSecond_of_store {s : State} {st : Memory} (hst : s.store = some st) :
    emitSecond s =
      { s with
        rtc :=
          { live := advanceSecond s.rtc.live
            latched := s.rtc.latched
            cycleCounter := BitVec.ofNat 32 (s.rtc.cycleCounter.toNat % s.params.tickFreq)
            lastSave := s.port.now }
        store := some (persistedStore st s.cfg.ramSize
          { live := advanceSecond s.rtc.live
            latched := s.rtc.latched
            cycleCounter := BitVec.ofNat 32
              (if s.params.persistBeforeReduce then s.rtc.cycleCounter.toNat
                else s.rtc.cycleCounter.toNat % s.params.tickFreq)
            lastSave := s.port.now } s.port.transfer)
        log := s.log ++ s.port.transfer.note 22 } := by
  unfold emitSecond
  cases s.params.persistBeforeReduce with
  | true =>
    rw [if_pos rfl, if_pos rfl, BitVec.ofNat_toNat, BitVec.setWidth_eq,
      persistRtcBlock_of_store s.port.now (s := s.setRtc { s.rtc with live := advanceSecond s.rtc.live }) hst]
    rfl
  | false =>
    exact persistRtcBlock_of_store s.port.now
      (s := reduceCounter (s.setRtc { s.rtc with live := advanceSecond s.rtc.live })) hst

/-! ### The RTC write -/

/-- The place of a register in its file and in the block (10_state.md R28). -/
def RtcReg.index : RtcReg → Nat
  | .seconds => 0
  | .minutes => 1
  | .hours => 2
  | .dayLow => 3
  | .dayHigh => 4

/-- The selectors of the registers are 0x08 to 0x0C in that order. -/
theorem index_of_selectorOf {v : Byte} {r : RtcReg} (h : selectorOf v = .rtc r) : v.toNat - 0x08 = r.index := by
  revert v
  cases r <;> decide

theorem RtcFile.bytes_set (f : RtcFile) (r : RtcReg) (d : Byte) : (f.set r d).bytes = f.bytes.set r.index d := by
  cases r <;> rfl

/-- The check of an RTC write on the number of the register (43_rtc.md R233). -/
theorem rtcAccepts_of_lt {r : RtcReg} {d : Byte} (hsixty : r.index ≤ 1 → d.toNat < 60)
    (hday : r.index = 2 → d.toNat < 24) : rtcAccepts r d = true := by
  cases r with
  | seconds | minutes => exact decide_eq_true (hsixty (by decide))
  | hours => exact decide_eq_true (hday rfl)
  | dayLow | dayHigh => rfl

/-- The RTC after an accepted write: both files take the datum, and the timestamp is that of the persist (43_rtc.md R233). -/
def writtenRtc (r : RtcReg) (d : Byte) (s : State) : Rtc :=
  { live := s.rtc.live.set r d
    latched := s.rtc.latched.set r d
    cycleCounter := s.rtc.cycleCounter
    lastSave := s.port.now }

theorem writeRtc_of_store (r : RtcReg) (d : Byte) {s : State} {st : Memory} (hst : s.store = some st) :
    writeRtc r d s =
      { s with
        rtc := writtenRtc r d s
        store := some (persistedStore st s.cfg.ramSize (writtenRtc r d s) s.port.transfer)
        log := s.log ++ s.port.transfer.note 22 } :=
  persistRtcBlock_of_store s.port.now (s := s.setRtc _) hst

/-- An accepted RTC write with a datum in range is the write of the register that the selector names. -/
theorem exec_wcWrRtc_of_accepts {s : State} {a : Addr} {d : Byte} (hacc : s.Accepts (.wcWrRtc a d))
    (hsixty : s.wc.ramBankOrRtcRegister.toNat - 0x08 ≤ 1 → d.toNat < 60)
    (hday : s.wc.ramBankOrRtcRegister.toNat - 0x08 = 2 → d.toNat < 24) :
    ∃ r, s.wc.ramBankOrRtcRegister.toNat - 0x08 = RtcReg.index r ∧
      exec (.wcWrRtc a d) s = complete .done (writeRtc r d s) := by
  obtain ⟨r, hr⟩ := selector_of_window_rtc (window_of_applies hacc.applies).2
  have hindex := index_of_selectorOf hr
  rw [hindex] at hsixty hday
  refine ⟨r, hindex, ?_⟩
  calc exec (.wcWrRtc a d) s
      = withRtcReg s fun r => complete .done (if rtcAccepts r d then writeRtc r d s else s) := whenRow_of_accepts hacc _
    _ = complete .done (writeRtc r d s) := by rw [withRtcReg_of_rtc hr, if_pos (rtcAccepts_of_lt hsixty hday)]

/-! ### Persists that fall short -/

/-- A store of `WideClock` has room for the block behind the RAM (45_persistent_store.md R283). -/
theorem block_fits_of_storeFits {c : CartConfig} {st : Memory} (hv : c.variant = .wideClock)
    (h : storeFits c st = true) : c.ramSize + 22 ≤ st.size := by
  rw [(storeFits_iff.1 h).2, hv]
  rfl

section ShortPersist

variable {s : State} {n : Nat} {st : Memory}

/-- The bytes of a persist that moves only the first `n` of the block. -/
theorem read_persistedStore_of_short (hst : storeFits s.cfg st = true) (hv : s.cfg.variant = .wideClock)
    (ht : s.port.transfer = .onlyFirst n) (hn : n < 22) (r : Rtc) :
    (∀ k, k < n →
      (persistedStore st s.cfg.ramSize r s.port.transfer).read (s.cfg.ramSize + k) = (rtcBlock r).getD k 0) ∧
    ∀ k, k < s.cfg.ramSize ∨ s.cfg.ramSize + n ≤ k →
      (persistedStore st s.cfg.ramSize r s.port.transfer).read k = st.read k := by
  have hmoved : s.port.transfer.moved 22 = n := by
    rw [ht]
    exact Nat.min_eq_left hn.le
  have hread := read_persistedStore (storeFits_iff.1 hst).1 (block_fits_of_storeFits hv hst) r s.port.transfer
  rw [hmoved] at hread
  constructor
  · intro k hk
    rw [hread, if_pos (by omega), Nat.add_sub_cancel_left]
  · intro k hk
    rw [hread, if_neg (by omega)]

theorem note_of_short (ht : s.port.transfer = .onlyFirst n) (hn : n < 22) : s.port.transfer.note 22 = [.partialIo] := by
  rw [ht]
  exact if_pos ((Nat.min_le_left n 22).trans_lt hn)

end ShortPersist

end Sys2Proof.Machine

/-! SUPPORT. `CON` with whole and short transfers (40_dispatch_romonly.md R132, 43_rtc.md R250, R253, 45_persistent_store.md R281 to
R291): the next state written out field by field from what `open` loads and leaves and what the fast-forward does, and from it the
cases with and without a save file. -/

namespace Sys2Proof.Machine

/-! ### The preconditions -/

/-- The size of the store is the RAM's and, on `WideClock`, the block's (45_persistent_store.md R283). -/
theorem storeSizeOf_eq (v : Variant) (n : Nat) : storeSizeOf v n = n + if v = .wideClock then 22 else 0 := by
  cases v <;> rfl

theorem imageSizeOk_iff {img : Memory} : imageSizeOk img = true ↔ img.size % 16384 = 0 ∧ 16384 ≤ img.size := by
  rw [imageSizeOk, Bool.and_eq_true, decide_eq_true_eq, decide_eq_true_eq]
  rfl

theorem saveBlockProblem_eq_none {now : Time} {r : Rtc} (hrange : r.inRange = true)
    (htime : r.lastSave.toNat ≤ now.toNat) : saveBlockProblem now r = none :=
  (if_pos hrange).trans (if_pos htime)

/-- A `CON` without a problem is reset, `open` and fast-forward (40_dispatch_romonly.md R132). -/
theorem exec_con_of_no_problem {t : CartType} {s : State}
    (htype : typeOf s.params.typeTable s.port.con.cartridgeType = some t) (hok : conProblem t s = none) :
    exec .con s = complete .constructed (fastForwardIfClocked (openStore (resetInstance t s))) := by
  show execCon s = _
  simp only [execCon, htype, hok]

/-- An instance that is not attached has neither a file to check nor a store nor a fast-forward (45_persistent_store.md R281). -/
theorem exec_con_of_not_attached {t : CartType} {s : State}
    (htype : typeOf s.params.typeTable s.port.con.cartridgeType = some t) (himg : imageSizeOk s.port.con.img = true)
    (hatt : attachedAs t.variant t.hasBattery = false) : exec .con s = .next (resetInstance t s) := by
  have hok : conProblem t s = none := by simp [conProblem, himg, hatt]
  have hopen : openStore (resetInstance t s) = resetInstance t s := if_neg (by simp [CartConfig.attached, resetInstance, hatt])
  have hclock : fastForwardIfClocked (resetInstance t s) = resetInstance t s := by
    refine if_neg ?_
    rintro ⟨hv, -, hbat⟩
    rw [show t.variant = .wideClock from hv, show t.hasBattery = true from hbat] at hatt
    cases hatt
  rw [exec_con_of_no_problem htype hok, hopen, hclock]
  rfl

/-! ### What `open` loads and leaves -/

/-- The size of the store of the instance that `CON` builds. -/
def builtSize (t : CartType) (s : State) : Nat := storeSizeOf t.variant s.port.con.ramSizeBytes

/-- What is loaded: the file as far as the load gets, behind it the snapshot; without a file the snapshot (45_persistent_store.md
R284, R291). -/
def loadedBy (t : CartType) (s : State) : Memory :=
  match saveFileFound s with
  | some f => loadedImage f (resetInstance t s)
  | none => snapshot (resetInstance t s)

/-- The store that `open` leaves: the file, or a new one (45_persistent_store.md R284). -/
def openedBy (t : CartType) (s : State) : Memory :=
  match saveFileFound s with
  | some f => f
  | none => createdStore (resetInstance t s)

/-- RAM and RTC as loaded; only a `WideClock` has its RTC in the store (45_persistent_store.md R287). -/
def loadedRam (t : CartType) (s : State) : Memory :=
  (initialRam s.params s.port.con.ramSizeBytes).copyFirst (loadedBy t s) s.port.con.ramSizeBytes

def loadedRtc (t : CartType) (s : State) : Rtc :=
  if t.variant = .wideClock then rtcAt (loadedBy t s) s.port.con.ramSizeBytes else Rtc.reset s.port.now

section Open

variable {t : CartType} {s : State} {f : Memory} {k : Nat}

theorem loadedBy_of_some (h : saveFileFound s = some f) : loadedBy t s = loadedImage f (resetInstance t s) := by
  simp only [loadedBy, h]

theorem loadedBy_of_none (h : saveFileFound s = none) : loadedBy t s = snapshot (resetInstance t s) := by
  simp only [loadedBy, h]

theorem openedBy_of_some (h : saveFileFound s = some f) : openedBy t s = f := by
  simp only [openedBy, h]

theorem openedBy_of_none (h : saveFileFound s = none) : openedBy t s = createdStore (resetInstance t s) := by
  simp only [openedBy, h]

theorem wf_resetInstance_ram (hinv : s.Inv) : (resetInstance t s).ram.wf = true := Memory.wf_initialRam hinv.paramsOk _

/-- The snapshot of the new instance: `RAM_INIT` and the reset block (45_persistent_store.md R288). -/
theorem read_snapshot_resetInstance (hinv : s.Inv) (hk : k < builtSize t s) :
    (snapshot (resetInstance t s)).read k =
      if k < s.port.con.ramSizeBytes then Memory.lookup s.params.ramInit k
      else (rtcBlock (Rtc.reset s.port.now)).getD (k - s.port.con.ramSizeBytes) 0 := by
  refine (read_snapshot (wf_resetInstance_ram hinv) rfl hk).trans (ite_congr rfl (fun hram => ?_) fun _ => rfl)
  exact (Memory.read_initialRam s.params _ k).trans (if_pos hram)

theorem read_loadedBy (k : Nat) :
    (loadedBy t s).read k =
      match saveFileFound s with
      | some f =>
        if k < s.port.con.openTransfer.moved (builtSize t s) then f.read k else (snapshot (resetInstance t s)).read k
      | none => (snapshot (resetInstance t s)).read k := by
  cases h : saveFileFound s with
  | none => rw [loadedBy_of_none h]
  | some f =>
    rw [loadedBy_of_some h]
    exact read_loadedImage f (resetInstance t s) k

theorem read_openedBy (hk : k < builtSize t s) :
    (openedBy t s).read k =
      match saveFileFound s with
      | some f => f.read k
      | none =>
        if k < s.port.con.openTransfer.moved (builtSize t s) then (snapshot (resetInstance t s)).read k
        else Memory.lookup s.port.con.unwritten k := by
  cases h : saveFileFound s with
  | none =>
    rw [openedBy_of_none h]
    exact (read_createdStore _ k).trans (ite_congr rfl (fun _ => rfl) fun _ => if_pos hk)
  | some f => rw [openedBy_of_some h]

theorem size_openedBy (hsize : ∀ f, saveFileFound s = some f → f.size = builtSize t s) :
    (openedBy t s).size = builtSize t s := by
  cases h : saveFileFound s with
  | none => rw [openedBy_of_none h]; rfl
  | some f => rw [openedBy_of_some h, hsize f h]

theorem wf_openedBy (hinv : s.Inv) : (openedBy t s).wf = true := by
  cases h : saveFileFound s with
  | none =>
    have hport := hinv.portWf
    simp only [Request.wf, Bool.and_eq_true] at hport
    rw [openedBy_of_none h]
    exact wf_createdStore (s := resetInstance t s) hport.2 (wf_resetInstance_ram hinv) rfl
  | some f => rw [openedBy_of_some h, wf_saveFileFound hinv h]

theorem read_loadedRam (hk : k < s.port.con.ramSizeBytes) : (loadedRam t s).read k = (loadedBy t s).read k :=
  (Memory.read_copyFirst _ _ _ k).trans (if_pos hk)

theorem wf_loadedRam (hinv : s.Inv) : (loadedRam t s).wf = true := by
  refine Memory.wf_copyFirst (wf_resetInstance_ram (t := t) hinv) ?_ (Nat.le_refl _)
  cases h : saveFileFound s with
  | none => rw [loadedBy_of_none h, Memory.wf_snapshot (wf_resetInstance_ram hinv) rfl]
  | some f => rw [loadedBy_of_some h, wf_loadedImage (wf_saveFileFound hinv h) (wf_resetInstance_ram hinv) rfl]

/-- Loading the snapshot itself changes nothing, so a `CON` without a save file is one that loads the snapshot. -/
theorem loadedRam_of_none (hinv : s.Inv) (h : saveFileFound s = none) :
    loadedRam t s = initialRam s.params s.port.con.ramSizeBytes := by
  refine Memory.eq_of_read_eq (wf_loadedRam hinv) (wf_resetInstance_ram (t := t) hinv) rfl fun k hk => ?_
  rw [read_loadedRam hk, loadedBy_of_none h]
  exact read_snapshot_ram (wf_resetInstance_ram hinv) rfl hk

theorem loadedRtc_of_none (hinv : s.Inv) (h : saveFileFound s = none) : loadedRtc t s = Rtc.reset s.port.now := by
  unfold loadedRtc
  split
  · next hv =>
    rw [loadedBy_of_none h]
    refine rtcAt_eq_of_block fun j hj => ?_
    rw [read_snapshot_resetInstance hinv (by rw [builtSize, storeSizeOf_eq, if_pos hv]; omega), if_neg (by omega),
      Nat.add_sub_cancel_left]
  · rfl

/-- `open` of an attached instance (45_persistent_store.md R284). -/
theorem openStore_resetInstance (hinv : s.Inv) (hatt : attachedAs t.variant t.hasBattery = true) :
    openStore (resetInstance t s) =
      { resetInstance t s with
        rtc := loadedRtc t s
        ram := loadedRam t s
        store := some (openedBy t s)
        log := s.port.con.openTransfer.note (builtSize t s) } := by
  obtain ⟨hnot, -⟩ | ⟨-, log, rfl, ⟨hfile, heq⟩ | ⟨f, hfile, heq⟩⟩ := openStore_cases (resetInstance t s)
  · exact absurd (hnot.symm.trans hatt) (by decide)
  · rw [heq, loadedRam_of_none hinv hfile, loadedRtc_of_none hinv hfile, openedBy_of_none hfile]
    rfl
  · rw [heq, loadedRam, loadedRtc, loadedBy_of_some hfile, openedBy_of_some hfile]
    rfl

end Open

/-! ### The fast-forward -/

/-- The fast-forward runs on `WideClock` with a timer, where there is a battery (43_rtc.md R250, R253). -/
def clockRuns (v : Variant) (hasTimer : Bool) : Bool := decide (v = .wideClock) && hasTimer

theorem clockRuns_iff {v : Variant} {hasTimer : Bool} :
    clockRuns v hasTimer = true ↔ v = .wideClock ∧ hasTimer = true := by
  simp [clockRuns]

/-- The RTC after the fast-forward to `now`, where it runs (43_rtc.md R250). -/
def resumedRtc (runs : Bool) (now : Time) (r : Rtc) : Rtc :=
  { live :=
      if runs = true ∧ r.live.halted = false then
        advanceElapsed (now.toNat - r.lastSave.toNat) r.live
      else r.live
    latched := r.latched
    cycleCounter := r.cycleCounter
    lastSave := if runs then now else r.lastSave }

theorem resumedRtc_false (now : Time) (r : Rtc) : resumedRtc false now r = r := by
  simp [resumedRtc]

theorem advanceElapsed_zero (f : RtcFile) : advanceElapsed 0 f = f := rfl

/-- For a clock that is reset at `now` no time has passed. -/
theorem resumedRtc_reset (runs : Bool) (now : Time) : resumedRtc runs now (Rtc.reset now) = Rtc.reset now := by
  simp [resumedRtc, Rtc.reset, advanceElapsed_zero]

/-- The fast-forward with a store: the clock is resumed and its block persisted (43_rtc.md R250). -/
theorem fastForward_of_store (now : Time) {s : State} {st : Memory} (hst : s.store = some st) :
    fastForward now s =
      { s with
        rtc := resumedRtc true now s.rtc
        store := some (persistedStore st s.cfg.ramSize (resumedRtc true now s.rtc) s.port.transfer)
        log := s.log ++ s.port.transfer.note 22 } := by
  have hlive : (if s.rtc.live.halted then s.rtc.live
      else advanceElapsed (now.toNat - s.rtc.lastSave.toNat) s.rtc.live) = (resumedRtc true now s.rtc).live := by
    cases hhalt : s.rtc.live.halted <;> simp [resumedRtc, hhalt]
  unfold fastForward
  rw [hlive]
  exact persistRtcBlock_of_store now (s := s.setRtc _) hst

theorem fastForwardIfClocked_of_store {s : State} {st : Memory} (hst : s.store = some st)
    (hbat : s.cfg.hasBattery = true) {runs : Bool} (hruns : clockRuns s.cfg.variant s.cfg.hasTimer = runs) :
    fastForwardIfClocked s =
      { s with
        rtc := resumedRtc runs s.port.now s.rtc
        store := some
          (if runs then persistedStore st s.cfg.ramSize (resumedRtc runs s.port.now s.rtc) s.port.transfer else st)
        log := s.log ++ if runs then s.port.transfer.note 22 else [] } := by
  unfold fastForwardIfClocked
  cases runs with
  | true =>
    obtain ⟨hv, htimer⟩ := clockRuns_iff.1 hruns
    rw [if_pos ⟨hv, htimer, hbat⟩, fastForward_of_store s.port.now hst]
    rfl
  | false =>
    have hnot : ¬ (s.cfg.variant = .wideClock ∧ s.cfg.hasTimer = true ∧ s.cfg.hasBattery = true) := by
      rintro ⟨hv, htimer, -⟩
      rw [clockRuns_iff.2 ⟨hv, htimer⟩] at hruns
      cases hruns
    rw [if_neg hnot, resumedRtc_false, if_neg Bool.false_ne_true, if_neg Bool.false_ne_true, List.append_nil, ← hst]

/-! ### `CON` of an attached instance -/

/-- The preconditions of a `CON` of an attached instance of a supported type (00_scope.md R12). -/
structure Buildable (t : CartType) (s : State) : Prop where
  type : typeOf s.params.typeTable s.port.con.cartridgeType = some t
  attached : attachedAs t.variant t.hasBattery = true
  image : imageSizeOk s.port.con.img = true
  fileSize : ∀ f, saveFileFound s = some f → f.size = builtSize t s
  inRange : (loadedRtc t s).inRange = true
  notEarlier : (loadedRtc t s).lastSave.toNat ≤ s.port.now.toNat

/-- The RTC after `CON`: the loaded one, resumed where the fast-forward runs. -/
def builtRtc (t : CartType) (s : State) : Rtc := resumedRtc (clockRuns t.variant t.hasTimer) s.port.now (loadedRtc t s)

/-- The store after `CON`: the one that `open` leaves and over it what the fast-forward persists. -/
def builtStore (t : CartType) (s : State) : Memory :=
  if clockRuns t.variant t.hasTimer then
    persistedStore (openedBy t s) s.port.con.ramSizeBytes (builtRtc t s) s.port.transfer
  else openedBy t s

/-- The notes of a `CON`, `open`'s before the persist's (log entry 44). -/
def builtLog (t : CartType) (s : State) : List Warning :=
  s.port.con.openTransfer.note (builtSize t s) ++
    if clockRuns t.variant t.hasTimer then s.port.transfer.note 22 else []

section Attached

variable {t : CartType} {s : State}

theorem Buildable.hasBattery (h : Buildable t s) : t.hasBattery = true := by
  have hatt := h.attached
  simp only [attachedAs, Bool.and_eq_true] at hatt
  exact hatt.1

theorem Buildable.no_problem (h : Buildable t s) : conProblem t s = none := by
  simp only [conProblem, h.image, h.attached, if_true]
  cases hf : saveFileFound s with
  | none => rfl
  | some f =>
    have hrange := h.inRange
    have htime := h.notEarlier
    simp only [saveFileProblem]
    rw [if_pos (show f.size = storeSizeOf t.variant s.port.con.ramSizeBytes from h.fileSize f hf)]
    cases hv : t.variant with
    | romOnly | linearBank | wideBank => rfl
    | wideClock =>
      rw [loadedRtc, if_pos hv, loadedBy_of_some hf] at hrange htime
      exact saveBlockProblem_eq_none hrange htime

/-- `CON` of an attached instance, with any two transfers. -/
theorem exec_con_of_buildable (hinv : s.Inv) (h : Buildable t s) {found : Option Memory} {rtc : Rtc} {ram st : Memory}
    {log : List Warning} (hfound : saveFileFound s = found) (hrtc : builtRtc t s = rtc) (hram : loadedRam t s = ram)
    (hst : builtStore t s = st) (hlog : builtLog t s = log) :
    exec .con s = .next
      { resetInstance t s with
        cfg := { (resetInstance t s).cfg with file0 := found }
        rtc := rtc
        ram := ram
        store := some st
        log := log } := by
  subst hfound hrtc hram hst hlog
  rw [exec_con_of_no_problem h.type h.no_problem, openStore_resetInstance hinv h.attached,
    fastForwardIfClocked_of_store rfl h.hasBattery rfl, complete_eq]
  rfl

theorem size_builtStore (h : Buildable t s) : (builtStore t s).size = builtSize t s := by
  unfold builtStore
  split
  · rw [size_persistedStore, size_openedBy h.fileSize]
  · exact size_openedBy h.fileSize

theorem read_builtStore (hinv : s.Inv) (h : Buildable t s) (k : Nat) :
    (builtStore t s).read k =
      if clockRuns t.variant t.hasTimer = true ∧ s.port.con.ramSizeBytes ≤ k ∧
          k < s.port.con.ramSizeBytes + s.port.transfer.moved 22 then
        (rtcBlock (builtRtc t s)).getD (k - s.port.con.ramSizeBytes) 0
      else (openedBy t s).read k := by
  unfold builtStore
  rw [ite_and]
  split
  · next hruns =>
    have hfit : s.port.con.ramSizeBytes + 22 ≤ (openedBy t s).size := by
      rw [size_openedBy h.fileSize, builtSize, storeSizeOf_eq, if_pos (clockRuns_iff.1 hruns).1]
    exact read_persistedStore (wf_openedBy hinv) hfit _ _ k
  · rfl

section WholeTransfers

variable (hopen : s.port.con.openTransfer.covers (builtSize t s) = true)
  (hpersist : clockRuns t.variant t.hasTimer = true → s.port.transfer.covers 22 = true)

include hopen in
/-- With a whole `open` the store is what is loaded (45_persistent_store.md R284). -/
theorem read_openedBy_of_covers {k : Nat} (hk : k < builtSize t s) : (openedBy t s).read k = (loadedBy t s).read k := by
  rw [read_openedBy hk, read_loadedBy, Transfer.moved_of_covers hopen]
  cases saveFileFound s with
  | none => exact if_pos hk
  | some f => exact (if_pos hk).symm

include hopen hpersist in
theorem builtLog_of_covers : builtLog t s = [] := by
  rw [builtLog, Transfer.note_of_covers hopen]
  split
  · next hruns => rw [Transfer.note_of_covers (hpersist hruns)]; rfl
  · rfl

include hopen in
theorem read_builtStore_of_covers (hinv : s.Inv) (h : Buildable t s) {k : Nat} (hk : k < s.port.con.ramSizeBytes) :
    (builtStore t s).read k = (loadedRam t s).read k := by
  rw [read_builtStore hinv h, if_neg fun hin => absurd hin.2.1 (Nat.not_le.2 hk),
    read_openedBy_of_covers hopen (hk.trans_le (le_storeSizeOf _ _)), read_loadedRam hk]

include hopen hpersist in
/-- The store holds the clock of the new instance: as persisted, or as loaded where the fast-forward does not run. -/
theorem rtcAt_builtStore_of_covers (hinv : s.Inv) (h : Buildable t s) (hv : t.variant = .wideClock) :
    rtcAt (builtStore t s) s.port.con.ramSizeBytes = builtRtc t s := by
  cases hruns : clockRuns t.variant t.hasTimer with
  | true =>
    refine rtcAt_eq_of_block fun j hj => ?_
    rw [read_builtStore hinv h, Transfer.moved_of_covers (hpersist hruns), if_pos ⟨hruns, by omega, by omega⟩,
      Nat.add_sub_cancel_left]
  | false =>
    have hfit : s.port.con.ramSizeBytes + 22 = builtSize t s := by rw [builtSize, storeSizeOf_eq, if_pos hv]
    rw [builtStore, builtRtc, hruns, resumedRtc_false, loadedRtc, if_pos hv, if_neg Bool.false_ne_true]
    exact rtcAt_congr fun j hj => read_openedBy_of_covers hopen (by omega)

end WholeTransfers

end Attached

/-- Settles O60: a short persist moves the first bytes of the block, and `CON` is written out for any two transfers. -/
theorem partialPersistMovesAPrefixAndWarns : Obligations.PartialPersistMovesAPrefixAndWarns := by
  unfold Obligations.PartialPersistMovesAPrefixAndWarns
  constructor
  · intro s n st hinv ht hn hst
    have hfits := hinv.storeOk st hst
    constructor
    · rintro a d _ hacc rfl hsixty hday
      obtain ⟨r, hr, hexec⟩ := exec_wcWrRtc_of_accepts hacc hsixty hday
      obtain ⟨hblock, hrest⟩ :=
        read_persistedStore_of_short hfits (wideClock_of_applies hacc.applies) ht hn (writtenRtc r d s)
      rw [hr]
      refine ⟨writtenRtc r d s, _, ?_, RtcFile.bytes_set _ r d, RtcFile.bytes_set _ r d, rfl, rfl, hblock, hrest⟩
      rw [hexec, writeRtc_of_store r d hst, complete_eq, note_of_short ht hn]
    · intro sum hacc hrun hsum hreached
      refine ⟨_, _, ?_, rfl, read_persistedStore_of_short hfits (wideClock_of_applies hacc.applies) ht hn _⟩
      rw [exec_wcTick_of_due hacc hsum hrun hreached, emitSecond_of_store (s := accumulate s) hst,
        toNat_counter_accumulate hsum, complete_eq, ← note_of_short ht hn]
      rfl
  · intro s t found size base g saved ticks live hinv htype hbat hv himg himg' hfound hsize hfile hbase hg hsaved hrange
      htime hticks hlive
    obtain rfl : found = saveFileFound s := hfound
    obtain rfl : size = builtSize t s := hsize.trans (storeSizeOf_eq _ _).symm
    obtain rfl : ticks = clockRuns t.variant t.hasTimer := hticks
    have hsnap : ∀ k, k < builtSize t s → base k = (snapshot (resetInstance t s)).read k := fun k hk =>
      (hbase k).trans (read_snapshot_resetInstance hinv hk).symm
    have hload : ∀ k, k < builtSize t s → (loadedBy t s).read k = g.read k := by
      intro k hk
      have hgk := hg k hk
      rw [hsnap k hk] at hgk
      exact (read_loadedBy k).trans hgk.symm
    obtain rfl : loadedRtc t s = saved := by
      rw [hsaved, loadedRtc]
      refine ite_congr rfl (fun hv => rtcAt_congr fun j hj => hload _ ?_) fun _ => rfl
      rw [builtSize, storeSizeOf_eq, if_pos hv]
      omega
    have hb : Buildable t s :=
      ⟨htype, by simp [attachedAs, hbat, hv], imageSizeOk_iff.2 ⟨himg, himg'⟩, hfile, hrange, htime⟩
    refine ⟨builtRtc t s, loadedRam t s, builtStore t s, ?_, ?_, rfl, fun k hk => ?_, size_builtStore hb, fun k hk => ?_⟩
    · rw [ite_and]
      exact exec_con_of_buildable hinv hb rfl rfl rfl rfl rfl
    · rw [hlive]
      rfl
    · rw [read_loadedRam hk, hload k (hk.trans_le (le_storeSizeOf _ _))]
    · have hread := read_builtStore hinv hb k
      rw [read_openedBy hk, ← hsnap k hk] at hread
      exact hread

/-! ### `CON` with whole transfers -/

theorem saveFileFound_eq_some {s : State} {f : Memory}
    (h : s.port.con.file0 = .bytes f ∨ s.port.con.file0 = .leftBehind ∧ s.store = some f) : saveFileFound s = some f := by
  obtain h | ⟨h, hst⟩ := h
  · simp only [saveFileFound, h]
  · simp only [saveFileFound, h, hst]

/-- Settles O40: an instance that is not attached stays as reset, and one without a file loads its own snapshot. -/
theorem constructWithoutASaveFile : Obligations.ConstructWithoutASaveFile := by
  unfold Obligations.ConstructWithoutASaveFile
  intro s t found attached hinv htype himg himg' hfound hatt hnone hcovers
  obtain rfl : found = saveFileFound s := hfound
  have himgOk : imageSizeOk s.port.con.img = true := imageSizeOk_iff.2 ⟨himg, himg'⟩
  have hram : ∀ k, k < s.port.con.ramSizeBytes →
      (initialRam s.params s.port.con.ramSizeBytes).read k = Memory.lookup s.params.ramInit k := fun k hk =>
    (Memory.read_initialRam s.params _ k).trans (if_pos hk)
  cases attached with
  | false =>
    exact ⟨initialRam s.params s.port.con.ramSizeBytes, none, exec_con_of_not_attached htype himgOk hatt.symm, rfl, hram,
      fun _ => rfl, fun h => absurd h Bool.false_ne_true⟩
  | true =>
    obtain hnone | hnone := hnone
    · cases hnone
    obtain ⟨hopen, htransfer⟩ := hcovers rfl
    rw [← storeSizeOf_eq] at hopen ⊢
    have hpersist : clockRuns t.variant t.hasTimer = true → s.port.transfer.covers 22 = true := fun hruns =>
      htransfer (clockRuns_iff.1 hruns).1 (clockRuns_iff.1 hruns).2
    have hrtc := loadedRtc_of_none (t := t) hinv hnone
    have hb : Buildable t s :=
      ⟨htype, hatt.symm, himgOk, fun f hf => absurd (hnone.symm.trans hf) (by simp), by rw [hrtc]; rfl, by rw [hrtc]; rfl⟩
    have hbuilt : builtRtc t s = Rtc.reset s.port.now := by rw [builtRtc, hrtc, resumedRtc_reset]
    refine ⟨loadedRam t s, some (builtStore t s),
      exec_con_of_buildable hinv hb rfl hbuilt rfl rfl (builtLog_of_covers hopen hpersist), rfl, ?_,
      fun h => absurd h.symm Bool.false_ne_true, fun _ => ⟨_, rfl, size_builtStore hb, fun k hk =>
        read_builtStore_of_covers hopen hinv hb hk, fun hv => ?_⟩⟩
    · rw [loadedRam_of_none hinv hnone]
      exact hram
    · rw [rtcAt_builtStore_of_covers hopen hpersist hinv hb hv, hbuilt]
      rfl

/-- Settles O41: with whole transfers the file is what is loaded, and the store holds the resumed clock behind the file's RAM. -/
theorem constructLoadsTheFileAndFastForwards : Obligations.ConstructLoadsTheFileAndFastForwards := by
  unfold Obligations.ConstructLoadsTheFileAndFastForwards
  intro s t f saved live hinv htype hv hbat himg himg' hfile hsize hopen htransfer hsaved hrange htime hlive
  have hfound := saveFileFound_eq_some hfile
  have hbuiltSize : f.size = builtSize t s := by rw [hsize, builtSize, storeSizeOf_eq, if_pos hv]
  rw [hbuiltSize] at hopen
  have hruns : clockRuns t.variant t.hasTimer = t.hasTimer := by simp [clockRuns, hv]
  have hpersist : clockRuns t.variant t.hasTimer = true → s.port.transfer.covers 22 = true := by
    rw [hruns]
    exact htransfer
  have hload : ∀ k, k < f.size → (loadedBy t s).read k = f.read k := fun k hk => by
    rw [← read_openedBy_of_covers hopen (hbuiltSize ▸ hk), openedBy_of_some hfound]
  obtain rfl : loadedRtc t s = saved := by
    rw [hsaved, loadedRtc, if_pos hv]
    exact rtcAt_congr fun j hj => hload _ (by omega)
  have hb : Buildable t s :=
    ⟨htype, by simp [attachedAs, hbat, hv], imageSizeOk_iff.2 ⟨himg, himg'⟩,
      fun g hg => Option.some.inj (hfound.symm.trans hg) ▸ hbuiltSize, hrange, htime⟩
  have hram : ∀ k, k < s.port.con.ramSizeBytes → (loadedRam t s).read k = f.read k := fun k hk => by
    rw [read_loadedRam hk, hload k (by omega)]
  refine ⟨builtRtc t s, loadedRam t s, builtStore t s,
    exec_con_of_buildable hinv hb hfound rfl rfl rfl (builtLog_of_covers hopen hpersist), ?_, rfl, hram,
    (size_builtStore hb).trans hbuiltSize.symm, fun k hk => ?_, rtcAt_builtStore_of_covers hopen hpersist hinv hb hv,
    fun hnoTimer => ?_⟩
  · rw [builtRtc, hruns, hlive]
    rfl
  · rw [read_builtStore_of_covers hopen hinv hb hk, hram k hk]
  · rw [builtStore, hruns, hnoTimer, if_neg Bool.false_ne_true, openedBy_of_some hfound]

/-- Settles O42: with a whole load RAM and store are the file, and nothing of the RTC stands in it. -/
theorem constructLoadsTheRamOfAPlainFile : Obligations.ConstructLoadsTheRamOfAPlainFile := by
  unfold Obligations.ConstructLoadsTheRamOfAPlainFile
  intro s t f hinv htype hplain hbat himg himg' hfile hsize hopen
  have hfound := saveFileFound_eq_some hfile
  have hv : t.variant ≠ .wideClock ∧ t.variant ≠ .romOnly := by
    obtain hv | hv := hplain <;> simp [hv]
  have hbuiltSize : f.size = builtSize t s := by rw [hsize, builtSize, storeSizeOf_eq, if_neg hv.1, Nat.add_zero]
  rw [hbuiltSize] at hopen
  have hruns : clockRuns t.variant t.hasTimer = false := by simp [clockRuns, hv.1]
  have hrtc : loadedRtc t s = Rtc.reset s.port.now := if_neg hv.1
  have hb : Buildable t s :=
    ⟨htype, by simp [attachedAs, hbat, hv.2], imageSizeOk_iff.2 ⟨himg, himg'⟩,
      fun g hg => Option.some.inj (hfound.symm.trans hg) ▸ hbuiltSize, by rw [hrtc]; rfl, by rw [hrtc]; rfl⟩
  have hram : loadedRam t s = f := Memory.eq_of_read_eq (wf_loadedRam hinv) (wf_saveFileFound hinv hfound) hsize.symm
    fun k hk => by
      rw [read_loadedRam hk, ← read_openedBy_of_covers hopen (hk.trans_le (le_storeSizeOf _ _)), openedBy_of_some hfound]
  have hstore : builtStore t s = f := by rw [builtStore, hruns, if_neg Bool.false_ne_true, openedBy_of_some hfound]
  have hbuilt : builtRtc t s = Rtc.reset s.port.now := by rw [builtRtc, hrtc, resumedRtc_reset]
  exact exec_con_of_buildable hinv hb hfound hbuilt hram hstore
    (builtLog_of_covers hopen fun h => absurd (hruns.symm.trans h) Bool.false_ne_true)

end Sys2Proof.Machine

/-! SUPPORT. The decoder against the encoder and the opcode table (30_encoding.md R100, R105, R106, R109): a word is its three fields,
the decoder goes by the kind, and neither it nor the table sees more of an address than its 4 KiB block. -/

namespace Sys2Proof.Machine

/-! ### The word and its fields -/

/-- The three fields are the whole word. -/
theorem opWord_fields (w : OpWord) : opWord (kindField w) (addrField w) (datumField w) = w := by
  apply BitVec.eq_of_getLsbD_eq
  intro i hi
  rw [opWord_getLsbD]
  by_cases hd : i < 8
  · simp [hd, datumField]
  · by_cases ha : i < 24
    · simp [hd, ha, addrField, show i - 8 < 16 by omega, show 8 + (i - 8) = i by omega]
    · simp [hd, ha, kindField, show i - 24 < 3 by omega, show 24 + (i - 24) = i by omega]

theorem opWord_inj {k k' : BitVec 3} {a a' : Addr} {d d' : Byte} :
    opWord k a d = opWord k' a' d' ↔ k = k' ∧ a = a' ∧ d = d' := by
  refine ⟨fun h => ⟨?_, ?_, ?_⟩, ?_⟩
  · simpa using congrArg kindField h
  · simpa using congrArg addrField h
  · simpa using congrArg datumField h
  · rintro ⟨rfl, rfl, rfl⟩
    rfl

theorem opWord_and (k k' : BitVec 3) (a a' : Addr) (d d' : Byte) :
    opWord k a d &&& opWord k' a' d' = opWord (k &&& k') (a &&& a') (d &&& d') := by
  apply BitVec.eq_of_getLsbD_eq
  intro i _
  simp only [BitVec.getLsbD_and, opWord_getLsbD]
  split
  · rfl
  · split <;> rfl

/-- The decoder on a packed word, by its kind (30_encoding.md R109). -/
theorem decode_opWord (m : Mode) (k : BitVec 3) (a : Addr) (d : Byte) :
    decode m (opWord k a d) =
      if k = 0 then (if d = 0 then .ok (decodeRead m a) else .error .readWithDatum)
      else if k = 1 then .ok (decodeWrite m a d)
      else if k = 2 then (if a = 0 ∧ d = 0 then .ok (decodeTick m) else .error .nonzeroFields)
      else if k = 3 then (if a = 0 ∧ d = 0 then .ok .fin else .error .nonzeroFields)
      else if k = 4 then (if a = 0 ∧ d = 0 then .ok .con else .error .nonzeroFields)
      else .error .reservedKind := by
  simp only [decode, kindField_opWord, addrField_opWord, datumField_opWord]
  have hk : k ∈ [(0 : BitVec 3), 1, 2, 3, 4, 5, 6, 7] := by
    revert k
    decide
  simp only [List.mem_cons, List.not_mem_nil, or_false] at hk
  obtain rfl | rfl | rfl | rfl | rfl | rfl | rfl | rfl := hk <;> rfl

theorem decode_read (m : Mode) (a : Addr) : decode m (opWord 0 a 0) = .ok (decodeRead m a) := by
  simp [decode_opWord]

theorem decode_write (m : Mode) (a : Addr) (d : Byte) : decode m (opWord 1 a d) = .ok (decodeWrite m a d) := by
  simp [decode_opWord]

/-! ### What decodes -/

/-- The word stands in the mode for the operation: it is its word, and the operation is well formed and one of the mode. -/
def StandsFor (m : Mode) (w : OpWord) (i : Instr) : Prop := encode i = w ∧ i.wf = true ∧ i.appliesIn m = true

theorem standsFor_decodeRead (m : Mode) (a : Addr) : StandsFor m (opWord 0 a 0) (decodeRead m a) := by
  cases m with
  | romOnly =>
    simp only [decodeRead, decodeReadRomOnly]
    cases h : regionOf a <;> simp [StandsFor, encode, Instr.wf, Instr.appliesIn, Instr.rowCond, RowCond.holds, inRegions, h]
  | linearBank en =>
    simp only [decodeRead, decodeReadLinear]
    cases h : regionOf a <;> cases en <;>
      simp [StandsFor, encode, Instr.wf, Instr.appliesIn, Instr.rowCond, RowCond.holds, inRegions, admits, h]
  | wideClock win =>
    simp only [decodeRead, decodeReadWideClock]
    cases h : regionOf a <;> cases win <;>
      simp [StandsFor, encode, Instr.wf, Instr.appliesIn, Instr.rowCond, RowCond.holds, inRegions, admits, h]
  | wideBank en =>
    simp only [decodeRead, decodeReadWideBank]
    cases h : regionOf a <;> cases en <;>
      simp [StandsFor, encode, Instr.wf, Instr.appliesIn, Instr.rowCond, RowCond.holds, inRegions, admits, h]

theorem standsFor_decodeRegisterWriteWideBank {a : Addr} (h : inRegions [.e, .b, .s, .m] a = true) (d : Byte) (en : Bool) :
    StandsFor (.wideBank en) (opWord 1 a d) (decodeRegisterWriteWideBank a d) := by
  unfold decodeRegisterWriteWideBank
  cases ht : wideBankTarget a <;>
    simp [StandsFor, encode, Instr.wf, Instr.appliesIn, Instr.rowCond, RowCond.holds, writesWideBank, admits, h, ht]

theorem standsFor_decodeWrite (m : Mode) (a : Addr) (d : Byte) :
    StandsFor m (opWord 1 a d) (decodeWrite m a d) := by
  cases m with
  | romOnly =>
    simp only [decodeWrite, decodeWriteRomOnly]
    cases h : regionOf a <;> simp [StandsFor, encode, Instr.wf, Instr.appliesIn, Instr.rowCond, RowCond.holds, inRegions, h]
  | linearBank en =>
    simp only [decodeWrite, decodeWriteLinear]
    cases h : regionOf a <;> cases en <;>
      simp [StandsFor, encode, Instr.wf, Instr.appliesIn, Instr.rowCond, RowCond.holds, inRegions, admits, h]
  | wideClock win =>
    simp only [decodeWrite, decodeWriteWideClock]
    cases h : regionOf a <;> cases win <;>
      simp [StandsFor, encode, Instr.wf, Instr.appliesIn, Instr.rowCond, RowCond.holds, inRegions, admits, h]
  | wideBank en =>
    simp only [decodeWrite, decodeWriteWideBank]
    cases h : regionOf a with
    | e | b | s | m => exact standsFor_decodeRegisterWriteWideBank (by simp [inRegions, h]) d en
    | w | x1 | x2 =>
      cases en <;> simp [StandsFor, encode, Instr.wf, Instr.appliesIn, Instr.rowCond, RowCond.holds, inRegions, admits, h]

theorem standsFor_decodeTick (m : Mode) : StandsFor m (opWord 2 0 0) (decodeTick m) := by
  cases m <;> exact ⟨rfl, rfl, rfl⟩

theorem standsFor_of_decode {m : Mode} {w : OpWord} {i : Instr} (h : decode m w = .ok i) : StandsFor m w i := by
  rw [← opWord_fields w] at h ⊢
  generalize kindField w = k, addrField w = a, datumField w = d at h ⊢
  rw [decode_opWord] at h
  split_ifs at h with hk hd hk hk hz hk hz hk hz <;> cases h
  · rw [hk, hd]
    exact standsFor_decodeRead m a
  · rw [hk]
    exact standsFor_decodeWrite m a d
  all_goals
    obtain ⟨rfl, rfl⟩ := hz
    rw [hk]
  · exact standsFor_decodeTick m
  · exact ⟨rfl, rfl, rfl⟩
  · exact ⟨rfl, rfl, rfl⟩

/-- Settles O2: each branch of the decoder stands for the word it was taken on. -/
theorem encodeOfDecodeIsTheWord : Obligations.EncodeOfDecodeIsTheWord := by
  unfold Obligations.EncodeOfDecodeIsTheWord
  exact fun m w i => standsFor_of_decode

/-! ### What is encoded -/

theorem inRegions_iff {rs : List Region} {a : Addr} : inRegions rs a = true ↔ regionOf a ∈ rs := by
  simp [inRegions]

theorem romOnly_of_holds {m : Mode} (h : RowCond.romOnly.holds m = true) : m = .romOnly := by
  cases m with
  | romOnly => rfl
  | _ => cases h

theorem linearBank_of_holds {c : Option Bool} {m : Mode} (h : (RowCond.linearBank c).holds m = true) :
    ∃ en, m = .linearBank en ∧ admits c en = true := by
  cases m with
  | linearBank en => exact ⟨en, rfl, h⟩
  | _ => cases h

theorem wideClock_of_holds {c : Option Window} {m : Mode} (h : (RowCond.wideClock c).holds m = true) :
    ∃ win, m = .wideClock win ∧ admits c win = true := by
  cases m with
  | wideClock win => exact ⟨win, rfl, h⟩
  | _ => cases h

theorem wideBank_of_holds {c : Option Bool} {m : Mode} (h : (RowCond.wideBank c).holds m = true) :
    ∃ en, m = .wideBank en ∧ admits c en = true := by
  cases m with
  | wideBank en => exact ⟨en, rfl, h⟩
  | _ => cases h

/-- In its mode and its region an operation is what the decoder reads from its word (30_encoding.md R105). -/
theorem decode_encode {m : Mode} {i : Instr} (hwf : i.wf = true) (happ : i.appliesIn m = true) :
    decode m (encode i) = .ok i := by
  cases i with
  | con | fin => rfl
  | roTick =>
    obtain rfl := romOnly_of_holds happ
    rfl
  | linTick =>
    obtain ⟨en, rfl, -⟩ := linearBank_of_holds happ
    rfl
  | wcTick =>
    obtain ⟨win, rfl, -⟩ := wideClock_of_holds happ
    rfl
  | wbTick =>
    obtain ⟨en, rfl, -⟩ := wideBank_of_holds happ
    rfl
  | roRdRom0 | roRdRomx | roRdWin | roRdExt =>
    obtain rfl := romOnly_of_holds happ
    rw [encode, decode_read]
    rw [Instr.wf, inRegions_iff] at hwf
    grind [decodeRead, decodeReadRomOnly]
  | roWrRom | roWrWin | roWrExt =>
    obtain rfl := romOnly_of_holds happ
    rw [encode, decode_write]
    rw [Instr.wf, inRegions_iff] at hwf
    grind [decodeWrite, decodeWriteRomOnly]
  | linRdRom0 | linRdRomx | linRdRam | linRdRamoff | linRdExt =>
    obtain ⟨en, rfl, hen⟩ := linearBank_of_holds happ
    rw [encode, decode_read]
    rw [Instr.wf, inRegions_iff] at hwf
    grind [decodeRead, decodeReadLinear, admits]
  | linWrRamen | linWrRomb | linWrBanksel | linWrMode | linWrRam | linWrRamoff | linWrExt =>
    obtain ⟨en, rfl, hen⟩ := linearBank_of_holds happ
    rw [encode, decode_write]
    rw [Instr.wf, inRegions_iff] at hwf
    grind [decodeWrite, decodeWriteLinear, admits]
  | wcRdRom0 | wcRdRomx | wcRdRam | wcRdRtc | wcRdBadsel | wcRdOff | wcRdExt =>
    obtain ⟨win, rfl, hwin⟩ := wideClock_of_holds happ
    rw [encode, decode_read]
    rw [Instr.wf, inRegions_iff] at hwf
    grind [decodeRead, decodeReadWideClock.eq_def, admits]
  | wcWrEn | wcWrRomb | wcWrSel | wcWrLatch | wcWrRam | wcWrRtc | wcWrBadsel | wcWrOff | wcWrExt =>
    obtain ⟨win, rfl, hwin⟩ := wideClock_of_holds happ
    rw [encode, decode_write]
    rw [Instr.wf, inRegions_iff] at hwf
    grind [decodeWrite, decodeWriteWideClock.eq_def, admits]
  | wbRdRom0 | wbRdRomx | wbRdRam | wbRdRamoff | wbRdExt =>
    obtain ⟨en, rfl, hen⟩ := wideBank_of_holds happ
    rw [encode, decode_read]
    rw [Instr.wf, inRegions_iff] at hwf
    grind [decodeRead, decodeReadWideBank, admits]
  | wbWrRam | wbWrRamoff | wbWrExt =>
    obtain ⟨en, rfl, hen⟩ := wideBank_of_holds happ
    rw [encode, decode_write]
    rw [Instr.wf, inRegions_iff] at hwf
    grind [decodeWrite, decodeWriteWideBank, admits]
  | wbWrRamen | wbWrRomb0 | wbWrRomb1 | wbWrRamb | wbWrNop =>
    obtain ⟨en, rfl, -⟩ := wideBank_of_holds happ
    rw [encode, decode_write]
    rw [Instr.wf, writesWideBank, Bool.and_eq_true, inRegions_iff, decide_eq_true_eq] at hwf
    grind [decodeWrite, decodeWriteWideBank, decodeRegisterWriteWideBank]

/-- Settles O1: the row of each operation, its region and its condition, is the branch that the decoder takes. -/
theorem decodeOfEncodeIsTheOperation : Obligations.DecodeOfEncodeIsTheOperation := by
  unfold Obligations.DecodeOfEncodeIsTheOperation
  exact fun m i => decode_encode

/-! ### Words that are no operation -/

theorem decode_error {m : Mode} {k : BitVec 3} {a : Addr} {d : Byte}
    (h : 5 ≤ k.toNat ∨ k.toNat = 0 ∧ d ≠ 0 ∨ 2 ≤ k.toNat ∧ k.toNat ≤ 4 ∧ (a ≠ 0 ∨ d ≠ 0)) :
    ∃ e, decode m (opWord k a d) = .error e := by
  rw [decode_opWord]
  obtain hk | ⟨hk, hd⟩ | ⟨hk, -, hfields⟩ := h
  · rw [if_neg (by bv_omega), if_neg (by bv_omega), if_neg (by bv_omega), if_neg (by bv_omega), if_neg (by bv_omega)]
    exact ⟨_, rfl⟩
  · rw [if_pos (by bv_omega), if_neg hd]
    exact ⟨_, rfl⟩
  · have hnot : ¬ (a = 0 ∧ d = 0) := not_and_or.2 hfields
    rw [if_neg (by bv_omega), if_neg (by bv_omega)]
    simp only [if_neg hnot]
    split_ifs <;> exact ⟨_, rfl⟩

/-- Settles O4: the step refuses what the decoder does. -/
theorem wordsThatAreNoOperationAreRefused : Obligations.WordsThatAreNoOperationAreRefused := by
  unfold Obligations.WordsThatAreNoOperationAreRefused
  intro s r rest hpending h
  obtain ⟨e, he⟩ := decode_error (m := s.mode) h
  rw [opWord_fields] at he
  exact ⟨e, by simp only [step, hpending, he]⟩

/-- Settles O6: each word is evaluated. -/
theorem sampleWordsDecode : Obligations.SampleWordsDecode := by
  unfold Obligations.SampleWordsDecode
  decide

/-! ### The rows of the opcode table -/

/-- The row matches the address field of a word. -/
def hitsAddr (r : OpcodeRow) (a : Addr) : Bool := decide (a &&& addrField r.mask = addrField r.pattern)

/-- The row matches the datum field of a word. -/
def hitsDatum (r : OpcodeRow) (d : Byte) : Bool := decide (d &&& datumField r.mask = datumField r.pattern)

/-- The rows of a mode and a kind. -/
def rowsFor (m : Mode) (k : BitVec 3) : List OpcodeRow :=
  opcodeTable.filter fun r => decide (k = kindField r.pattern) && r.cond.holds m

/-- Every row tests the whole kind. -/
theorem kindField_mask : ∀ r ∈ opcodeTable, kindField r.mask = 7 := by decide

/-- A row matches a packed word field by field. -/
theorem hits_opWord {r : OpcodeRow} (hr : r ∈ opcodeTable) (m : Mode) (k : BitVec 3) (a : Addr) (d : Byte) :
    r.hits m (opWord k a d) =
      ((decide (k = kindField r.pattern) && r.cond.holds m) && (hitsAddr r a && hitsDatum r d)) := by
  have hk : k &&& 7 = k := BitVec.and_allOnes
  rw [OpcodeRow.hits, ← opWord_fields r.mask, ← opWord_fields r.pattern, opWord_and]
  simp only [opWord_inj, kindField_mask r hr, hk, kindField_opWord, hitsAddr, hitsDatum, Bool.decide_and]
  ac_rfl

theorem filter_hits_opWord (m : Mode) (k : BitVec 3) (a : Addr) (d : Byte) :
    opcodeTable.filter (fun r => r.hits m (opWord k a d)) =
      (rowsFor m k).filter fun r => hitsAddr r a && hitsDatum r d := by
  rw [rowsFor, List.filter_filter]
  exact List.filter_congr fun r hr => (hits_opWord hr m k a d).trans (Bool.and_comm _ _)

/-- A row of a read or a write tests the leading four bits of the address at most; the row of a read asks for the datum 0, that
of a write for none (30_encoding.md R106). -/
theorem masks_of_access : ∀ r ∈ opcodeTable, kindField r.pattern = 0 ∨ kindField r.pattern = 1 →
    0xF000 &&& addrField r.mask = addrField r.mask ∧ datumField r.pattern = 0 ∧
      datumField r.mask = if kindField r.pattern = 0 then 0xFF else 0 := by decide

/-- Every other row asks for a word without address and datum. -/
theorem masks_of_no_access : ∀ r ∈ opcodeTable, kindField r.pattern ≠ 0 → kindField r.pattern ≠ 1 →
    addrField r.mask = 0xFFFF ∧ addrField r.pattern = 0 ∧ datumField r.mask = 0xFF ∧ datumField r.pattern = 0 := by decide

theorem mem_rowsFor {m : Mode} {k : BitVec 3} {r : OpcodeRow} (h : r ∈ rowsFor m k) :
    r ∈ opcodeTable ∧ k = kindField r.pattern := by
  simp only [rowsFor, List.mem_filter, Bool.and_eq_true, decide_eq_true_eq] at h
  exact ⟨h.1, h.2.1⟩

/-! ### The leading bits of the address -/

/-- The first address of the 4 KiB block with the given number. -/
def blockStart (t : BitVec 4) : Addr := t ++ 0#12

/-- The number of the 4 KiB block of an address. -/
def blockOf (a : Addr) : BitVec 4 := a.extractLsb' 12 4

theorem toNat_blockStart_blockOf (a : Addr) : (blockStart (blockOf a)).toNat = a.toNat / 4096 * 4096 := by
  have hlt := a.isLt
  have hnum : (blockOf a).toNat = a.toNat / 4096 := by
    rw [blockOf, BitVec.extractLsb'_toNat, Nat.shiftRight_eq_div_pow]
    omega
  rw [blockStart, BitVec.toNat_append, hnum, Nat.shiftLeft_eq]
  exact Nat.or_zero _

/-- The leading four bits of an address are the start of its block. -/
theorem and_blockMask (a : Addr) : a &&& 0xF000 = blockStart (blockOf a) := by
  have hmask : ∀ i < 16, (0xF000 : Addr).getLsbD i = decide (12 ≤ i) := by decide
  apply BitVec.eq_of_getLsbD_eq
  intro i hi
  rw [BitVec.getLsbD_and, hmask i hi, blockStart, blockOf, BitVec.getLsbD_append]
  by_cases h : i < 12
  · simp [h]
  · simp [h, show 12 ≤ i by omega, show i - 12 < 4 by omega]

theorem hitsAddr_blockStart {r : OpcodeRow} (h : 0xF000 &&& addrField r.mask = addrField r.mask) (a : Addr) :
    hitsAddr r a = hitsAddr r (blockStart (blockOf a)) := by
  rw [hitsAddr, hitsAddr, ← and_blockMask, BitVec.and_assoc, h]

theorem regionOf_blockStart (a : Addr) : regionOf (blockStart (blockOf a)) = regionOf a := by
  apply regionIndex_injective
  rw [regionIndex_regionOf, regionIndex_regionOf, toNat_blockStart_blockOf]
  omega

theorem has_blockStart {r : AddrRange} (hfirst : r.first % 4096 = 0) (hlast : r.last % 4096 = 4095) (a : Addr) :
    r.has (blockStart (blockOf a)) = r.has a := by
  rw [Bool.eq_iff_iff, addrRange_has_iff, addrRange_has_iff, toNat_blockStart_blockOf]
  omega

theorem wideBankTarget_blockStart (a : Addr) : wideBankTarget (blockStart (blockOf a)) = wideBankTarget a := by
  simp only [wideBankTarget, has_blockStart (r := wideBankMap.ramEnable) rfl rfl,
    has_blockStart (r := wideBankMap.romBankLow) rfl rfl, has_blockStart (r := wideBankMap.romBankHigh) rfl rfl,
    has_blockStart (r := wideBankMap.ramBank) rfl rfl]

/-- Which read or write of the mode it is depends on the region and, on `WideBank`, the register that the address reaches. -/
theorem mnemonic_decodeRead_congr (m : Mode) {a a' : Addr} (h : regionOf a = regionOf a') :
    (decodeRead m a).mnemonic = (decodeRead m a').mnemonic := by
  cases m with
  | romOnly =>
    simp only [decodeRead, decodeReadRomOnly, h]
    cases regionOf a' <;> rfl
  | linearBank en =>
    simp only [decodeRead, decodeReadLinear, h]
    cases regionOf a' <;> cases en <;> rfl
  | wideClock win =>
    simp only [decodeRead, decodeReadWideClock, h]
    cases regionOf a' <;> cases win <;> rfl
  | wideBank en =>
    simp only [decodeRead, decodeReadWideBank, h]
    cases regionOf a' <;> cases en <;> rfl

theorem mnemonic_decodeWrite_congr (m : Mode) {a a' : Addr} (d d' : Byte) (h : regionOf a = regionOf a')
    (ht : wideBankTarget a = wideBankTarget a') : (decodeWrite m a d).mnemonic = (decodeWrite m a' d').mnemonic := by
  cases m with
  | romOnly =>
    simp only [decodeWrite, decodeWriteRomOnly, h]
    cases regionOf a' <;> rfl
  | linearBank en =>
    simp only [decodeWrite, decodeWriteLinear, h]
    cases regionOf a' <;> cases en <;> rfl
  | wideClock win =>
    simp only [decodeWrite, decodeWriteWideClock, h]
    cases regionOf a' <;> cases win <;> rfl
  | wideBank en =>
    simp only [decodeWrite, decodeWriteWideBank, decodeRegisterWriteWideBank, h, ht]
    cases regionOf a' <;> cases wideBankTarget a' <;> cases en <;> rfl

/-- The modes, one by one. -/
def allModes : List Mode :=
  [.romOnly, .linearBank false, .linearBank true, .wideClock .off, .wideClock .ram, .wideClock .rtc, .wideClock .badSel,
    .wideBank false, .wideBank true]

theorem mem_allModes (m : Mode) : m ∈ allModes := by
  cases m with
  | romOnly => decide
  | linearBank en | wideBank en => cases en <;> decide
  | wideClock win => cases win <;> decide

/-- In each mode exactly one row of a read matches the addresses of a block, that of the decoded read; likewise of a write. -/
theorem rows_of_read_on_blocks : ∀ m ∈ allModes, ∀ t,
    ((rowsFor m 0).filter (hitsAddr · (blockStart t))).map OpcodeRow.mnemonic =
      [(decodeRead m (blockStart t)).mnemonic] := by decide +kernel

theorem rows_of_write_on_blocks : ∀ m ∈ allModes, ∀ t,
    ((rowsFor m 1).filter (hitsAddr · (blockStart t))).map OpcodeRow.mnemonic =
      [(decodeWrite m (blockStart t) 0).mnemonic] := by decide +kernel

/-- The kinds without address and datum have one row each, and the reserved kinds none. -/
theorem rows_of_no_access : ∀ m ∈ allModes,
    (rowsFor m 2).map OpcodeRow.mnemonic = [(decodeTick m).mnemonic] ∧
    (rowsFor m 3).map OpcodeRow.mnemonic = [Instr.fin.mnemonic] ∧
    (rowsFor m 4).map OpcodeRow.mnemonic = [Instr.con.mnemonic] ∧
    ∀ k, 5 ≤ k.toNat → rowsFor m k = [] := by decide +kernel

/-! ### The rows that match a word -/

/-- The names of the rows that match a word. -/
def matching (m : Mode) (w : OpWord) : List String :=
  (opcodeTable.filter (fun r => r.hits m w)).map OpcodeRow.mnemonic

theorem matching_eq_of_hits {m : Mode} {k : BitVec 3} {a : Addr} {d : Byte} {p : OpcodeRow → Bool}
    (h : ∀ r ∈ opcodeTable, k = kindField r.pattern → (hitsAddr r a && hitsDatum r d) = p r) :
    matching m (opWord k a d) = ((rowsFor m k).filter p).map OpcodeRow.mnemonic := by
  rw [matching, filter_hits_opWord]
  exact congrArg _ (List.filter_congr fun r hr => h r (mem_rowsFor hr).1 (mem_rowsFor hr).2)

theorem matching_read (m : Mode) (a : Addr) (d : Byte) :
    matching m (opWord 0 a d) = if d = 0 then [(decodeRead m a).mnemonic] else [] := by
  have hhits : ∀ r ∈ opcodeTable, 0 = kindField r.pattern →
      (hitsAddr r a && hitsDatum r d) = (hitsAddr r (blockStart (blockOf a)) && decide (d = 0)) := by
    intro r hr hk
    obtain ⟨haddr, hpat, hmask⟩ := masks_of_access r hr (.inl hk.symm)
    have hd : d &&& 0xFF = d := BitVec.and_allOnes
    rw [← hitsAddr_blockStart haddr, hitsDatum, hmask, hpat, if_pos hk.symm, hd]
  rw [matching_eq_of_hits hhits, ← mnemonic_decodeRead_congr m (regionOf_blockStart a)]
  split
  · next hd =>
    simp only [decide_eq_true hd, Bool.and_true]
    exact rows_of_read_on_blocks m (mem_allModes m) _
  · next hd => simp only [decide_eq_false hd, Bool.and_false, List.filter_false, List.map_nil]

theorem matching_write (m : Mode) (a : Addr) (d : Byte) :
    matching m (opWord 1 a d) = [(decodeWrite m a d).mnemonic] := by
  have hhits : ∀ r ∈ opcodeTable, 1 = kindField r.pattern →
      (hitsAddr r a && hitsDatum r d) = hitsAddr r (blockStart (blockOf a)) := by
    intro r hr hk
    obtain ⟨haddr, hpat, hmask⟩ := masks_of_access r hr (.inr hk.symm)
    rw [← hitsAddr_blockStart haddr, hitsDatum, hmask, hpat, if_neg (by rw [← hk]; decide)]
    simp
  rw [matching_eq_of_hits hhits, rows_of_write_on_blocks m (mem_allModes m),
    mnemonic_decodeWrite_congr m 0 d (regionOf_blockStart a) (wideBankTarget_blockStart a)]

theorem matching_no_access {m : Mode} {k : BitVec 3} (h0 : k ≠ 0) (h1 : k ≠ 1) (a : Addr) (d : Byte) :
    matching m (opWord k a d) = if a = 0 ∧ d = 0 then (rowsFor m k).map OpcodeRow.mnemonic else [] := by
  have hhits : ∀ r ∈ opcodeTable, k = kindField r.pattern →
      (hitsAddr r a && hitsDatum r d) = decide (a = 0 ∧ d = 0) := by
    rintro r hr rfl
    obtain ⟨hma, hpa, hmd, hpd⟩ := masks_of_no_access r hr h0 h1
    have ha : a &&& 0xFFFF = a := BitVec.and_allOnes
    have hd : d &&& 0xFF = d := BitVec.and_allOnes
    rw [hitsAddr, hitsDatum, hma, hpa, hmd, hpd, ha, hd, Bool.decide_and]
  rw [matching_eq_of_hits hhits]
  split
  · next h => rw [decide_eq_true h, List.filter_true]
  · next h => rw [decide_eq_false h, List.filter_false, List.map_nil]

/-- Settles O3: by kind, the rows that match are those the lemmas above list, and the decoder goes by the kind too. -/
theorem opcodeTableIsTotalAndWithoutOverlap : Obligations.OpcodeTableIsTotalAndWithoutOverlap := by
  unfold Obligations.OpcodeTableIsTotalAndWithoutOverlap
  intro m w
  show matching m w = _
  obtain ⟨htick, hfin, hcon, hreserved⟩ := rows_of_no_access m (mem_allModes m)
  rw [← opWord_fields w]
  generalize kindField w = k, addrField w = a, datumField w = d
  rw [decode_opWord]
  split_ifs with h0 hd h1 h2 hz h3 hz h4 hz
  · rw [h0, matching_read, if_pos hd]
  · rw [h0, matching_read, if_neg hd]
  · rw [h1, matching_write]
  · rw [matching_no_access h0 h1, if_pos hz, h2, htick]
  · rw [matching_no_access h0 h1, if_neg hz]
  · rw [matching_no_access h0 h1, if_pos hz, h3, hfin]
  · rw [matching_no_access h0 h1, if_neg hz]
  · rw [matching_no_access h0 h1, if_pos hz, h4, hcon]
  · rw [matching_no_access h0 h1, if_neg hz]
  · rw [matching_no_access h0 h1, hreserved k (by bv_omega), List.map_nil, ite_self]

end Sys2Proof.Machine

/-! SUPPORT. The advance of the RTC in seconds (43_rtc.md R226, R250, R251): each stage of the carry chain is a number of seconds
forward, and 60 or 24 steps of a stage are one of the next, so the fast-forward is the seconds one by one. -/

namespace Sys2Proof.Machine

/-! ### The ranges -/

theorem RtcFile.inRange_iff {f : RtcFile} :
    f.inRange = true ↔ f.seconds.toNat ≤ 59 ∧ f.minutes.toNat ≤ 59 ∧ f.hours.toNat ≤ 23 := by
  simp only [RtcFile.inRange, Bool.and_eq_true, decide_eq_true_eq, BitVec.le_def, and_assoc]
  rfl

/-! ### Seconds forward -/

/-- The seconds after which the day counter has run through all its values (10_state.md R30). -/
def secondsPerTurn : Nat := 512 * 86400

theorem totalSeconds_lt {f : RtcFile} (h : f.inRange = true) : totalSeconds f < secondsPerTurn := by
  obtain ⟨hs, hm, hh⟩ := RtcFile.inRange_iff.1 h
  have hday := f.day_lt
  unfold totalSeconds secondsPerTurn
  omega

/-- From `f` to `g` the clock has gone `n` seconds forward, around the day counter where it wraps. -/
structure Forward (n : Nat) (f g : RtcFile) : Prop where
  total : totalSeconds g = (totalSeconds f + n) % secondsPerTurn
  inRange : g.inRange = true
  dayCarry : g.dayCarry = (f.dayCarry || decide (secondsPerTurn ≤ totalSeconds f + n))

/-- A move that starts from an earlier time with the same day-carry. -/
theorem Forward.of_earlier {n n' : Nat} {f f' g : RtcFile} (h : Forward n' f' g)
    (htotal : totalSeconds f' + n' = totalSeconds f + n) (hcarry : f'.dayCarry = f.dayCarry) : Forward n f g :=
  ⟨htotal ▸ h.total, h.inRange, htotal ▸ hcarry ▸ h.dayCarry⟩

/-- A move within the range of a register leaves the day-carry alone. -/
theorem Forward.of_no_wrap {n : Nat} {f g : RtcFile} (htotal : totalSeconds g = totalSeconds f + n)
    (hrange : g.inRange = true) (hcarry : g.dayCarry = f.dayCarry) : Forward n f g := by
  have hlt := totalSeconds_lt hrange
  rw [htotal] at hlt
  refine ⟨by rw [htotal, Nat.mod_eq_of_lt hlt], hrange, ?_⟩
  rw [decide_eq_false (Nat.not_le.2 hlt), Bool.or_false, hcarry]

theorem advanceDay_forward (f : RtcFile) (h : f.inRange = true) : Forward 86400 f (advanceDay f) := by
  obtain ⟨hs, hm, hh⟩ := RtcFile.inRange_iff.1 h
  have hlt := f.day_lt
  refine ⟨?_, h, ?_⟩
  · unfold totalSeconds secondsPerTurn
    rw [advanceDay_day, show (advanceDay f).seconds = f.seconds from rfl, show (advanceDay f).minutes = f.minutes from rfl,
      show (advanceDay f).hours = f.hours from rfl]
    omega
  · rw [advanceDay_dayCarry]
    refine congrArg _ (decide_eq_decide.2 ?_)
    unfold totalSeconds secondsPerTurn
    omega

/-! ### A stage of the carry chain -/

theorem RtcFile.get_set (f : RtcFile) (r : RtcReg) (v : Byte) : (f.set r v).get r = v := by
  cases r <;> rfl

theorem RtcFile.set_set (f : RtcFile) (r : RtcReg) (v w : Byte) : (f.set r v).set r w = f.set r w := by
  cases r <;> rfl

theorem RtcFile.set_get (f : RtcFile) (r : RtcReg) : f.set r (f.get r) = f := by
  cases r <;> rfl

/-- One stage of the chain: a register that counts units of `weight` seconds up to `top`; from there `step` puts it back to 0 and
takes one step of the next stage, which does not look at the register (43_rtc.md R222 to R224). -/
structure Stage (r : RtcReg) (top weight : Nat) (step next : RtcFile → RtcFile) : Prop where
  step_eq : ∀ f, step f =
    if (f.get r).toNat = top then next (f.set r 0) else f.set r (BitVec.ofNat 8 ((f.get r).toNat + 1))
  next_set : ∀ f v, next (f.set r v) = (next f).set r v
  top_lt : top < 256
  get_le : ∀ f : RtcFile, f.inRange = true → (f.get r).toNat ≤ top
  inRange_set : ∀ (f : RtcFile) (v : Byte), f.inRange = true → v.toNat ≤ top → (f.set r v).inRange = true
  dayCarry_set : ∀ (f : RtcFile) (v : Byte), (f.set r v).dayCarry = f.dayCarry
  total_set : ∀ (f : RtcFile) (v : Byte),
    totalSeconds (f.set r v) + weight * (f.get r).toNat = totalSeconds f + weight * v.toNat

section Stage

variable {r : RtcReg} {top weight : Nat} {step next : RtcFile → RtcFile} {f : RtcFile}

theorem Stage.toNat_ofNat (h : Stage r top weight step next) {n : Nat} (hn : n ≤ top) : (BitVec.ofNat 8 n).toNat = n := by
  have htop := h.top_lt
  rw [BitVec.toNat_ofNat]
  omega

/-- A step of the stage is its unit forward, when a step of the next stage is a whole turn of the register. -/
theorem Stage.forward (h : Stage r top weight step next)
    (hnext : ∀ f, f.inRange = true → Forward (weight * (top + 1)) f (next f)) (hf : f.inRange = true) :
    Forward weight f (step f) := by
  have hle := h.get_le f hf
  rw [h.step_eq]
  split
  · next htop =>
    have htotal := h.total_set f 0
    refine (hnext _ (h.inRange_set f 0 hf (Nat.zero_le _))).of_earlier ?_ (h.dayCarry_set f 0)
    rw [htop, show (0 : Byte).toNat = 0 from rfl] at htotal
    rw [Nat.mul_add]
    omega
  · next hne =>
    have hvalue := h.toNat_ofNat (show (f.get r).toNat + 1 ≤ top by omega)
    have htotal := h.total_set f (BitVec.ofNat 8 ((f.get r).toNat + 1))
    rw [hvalue, Nat.mul_add] at htotal
    exact .of_no_wrap (by omega) (h.inRange_set f _ hf (by omega)) (h.dayCarry_set f _)

/-- Below the top the register counts. -/
theorem Stage.iterate_step (h : Stage r top weight step next) {k : Nat} (hk : (f.get r).toNat + k ≤ top) :
    step^[k] f = f.set r (BitVec.ofNat 8 ((f.get r).toNat + k)) := by
  induction k with
  | zero => rw [Nat.add_zero, BitVec.ofNat_toNat, BitVec.setWidth_eq, RtcFile.set_get, Function.iterate_zero_apply]
  | succ k ih =>
    rw [Function.iterate_succ_apply', ih (by omega), h.step_eq, RtcFile.get_set,
      h.toNat_ofNat (show (f.get r).toNat + k ≤ top by omega), if_neg (by omega), RtcFile.set_set, Nat.add_assoc]

/-- Through all values of the register the stage takes one step of the next. -/
theorem Stage.iterate_turn (h : Stage r top weight step next) (hf : f.inRange = true) : step^[top + 1] f = next f := by
  have hle := h.get_le f hf
  have hnext : (next f).get r = f.get r := by
    rw [← RtcFile.get_set (next f) r (f.get r), ← h.next_set, RtcFile.set_get]
  have hbelow : step^[top - (f.get r).toNat] f = f.set r (BitVec.ofNat 8 top) := by
    rw [h.iterate_step (by omega), Nat.add_sub_cancel' hle]
  have habove : step^[(f.get r).toNat] ((next f).set r 0) = next f := by
    rw [h.iterate_step (by rw [RtcFile.get_set]; simpa using hle), RtcFile.get_set, RtcFile.set_set]
    simp [← hnext, RtcFile.set_get]
  calc step^[top + 1] f
      = step^[(f.get r).toNat + 1 + (top - (f.get r).toNat)] f := congrArg (step^[·] f) (by omega)
    _ = step^[(f.get r).toNat] (step (f.set r (BitVec.ofNat 8 top))) := by
        rw [Function.iterate_add_apply, hbelow, Function.iterate_succ_apply]
    _ = step^[(f.get r).toNat] ((next f).set r 0) := by
        rw [h.step_eq, RtcFile.get_set, h.toNat_ofNat le_rfl, if_pos rfl, RtcFile.set_set, h.next_set]
    _ = next f := habove

end Stage

/-! ### The three stages -/

/-- Hours count in 3600 seconds, minutes in 60, seconds in 1. -/
theorem stage_hours : Stage .hours 23 3600 advanceHour advanceDay where
  step_eq := advanceHour_eq
  next_set f v := rfl
  top_lt := by decide
  get_le f h := (RtcFile.inRange_iff.1 h).2.2
  inRange_set f v h hv := RtcFile.inRange_iff.2 ⟨(RtcFile.inRange_iff.1 h).1, (RtcFile.inRange_iff.1 h).2.1, hv⟩
  dayCarry_set f v := rfl
  total_set f v := by
    show f.seconds.toNat + 60 * f.minutes.toNat + 3600 * v.toNat + 86400 * f.day + 3600 * f.hours.toNat = _
    unfold totalSeconds
    omega

theorem stage_minutes : Stage .minutes 59 60 advanceMinute advanceHour where
  step_eq := advanceMinute_eq
  next_set f v := by
    rw [advanceHour_eq, advanceHour_eq, apply_ite (RtcFile.set · .minutes v)]
    rfl
  top_lt := by decide
  get_le f h := (RtcFile.inRange_iff.1 h).2.1
  inRange_set f v h hv := RtcFile.inRange_iff.2 ⟨(RtcFile.inRange_iff.1 h).1, hv, (RtcFile.inRange_iff.1 h).2.2⟩
  dayCarry_set f v := rfl
  total_set f v := by
    show f.seconds.toNat + 60 * v.toNat + 3600 * f.hours.toNat + 86400 * f.day + 60 * f.minutes.toNat = _
    unfold totalSeconds
    omega

theorem stage_seconds : Stage .seconds 59 1 advanceSecond advanceMinute where
  step_eq := advanceSecond_eq
  next_set f v := by
    rw [advanceMinute_eq, advanceMinute_eq, apply_ite (RtcFile.set · .seconds v), advanceHour_eq, advanceHour_eq,
      apply_ite (RtcFile.set · .seconds v)]
    rfl
  top_lt := by decide
  get_le f h := (RtcFile.inRange_iff.1 h).1
  inRange_set f v h hv := RtcFile.inRange_iff.2 ⟨hv, (RtcFile.inRange_iff.1 h).2⟩
  dayCarry_set f v := rfl
  total_set f v := by
    show v.toNat + 60 * f.minutes.toNat + 3600 * f.hours.toNat + 86400 * f.day + 1 * f.seconds.toNat = _
    unfold totalSeconds
    omega

theorem advanceHour_forward (f : RtcFile) (h : f.inRange = true) : Forward 3600 f (advanceHour f) :=
  stage_hours.forward advanceDay_forward h

theorem advanceMinute_forward (f : RtcFile) (h : f.inRange = true) : Forward 60 f (advanceMinute f) :=
  stage_minutes.forward advanceHour_forward h

theorem advanceSecond_forward (f : RtcFile) (h : f.inRange = true) : Forward 1 f (advanceSecond f) :=
  stage_seconds.forward advanceMinute_forward h

/-- Settles O34: a second forward, and the total reaches the end of the turn only by hitting it. -/
theorem advanceSecondAddsOneSecond : Obligations.AdvanceSecondAddsOneSecond := by
  unfold Obligations.AdvanceSecondAddsOneSecond
  intro f h
  obtain ⟨htotal, hrange, hcarry⟩ := advanceSecond_forward f h
  have hlt := totalSeconds_lt h
  refine ⟨htotal, hrange, hcarry.trans ?_⟩
  exact congrArg _ (decide_eq_decide.2 ⟨fun hle => Nat.le_antisymm hlt hle, fun heq => heq.ge⟩)

/-! ### The fast-forward -/

/-- Steps of a move that keeps the range keep it. -/
theorem inRange_iterate {step : RtcFile → RtcFile} {n : Nat} (h : ∀ f, f.inRange = true → Forward n f (step f))
    (q : Nat) {f : RtcFile} (hf : f.inRange = true) : (step^[q] f).inRange = true := by
  have hmaps : Set.MapsTo step {f | f.inRange = true} {f | f.inRange = true} := fun f hf => (h f hf).inRange
  exact hmaps.iterate q hf

/-- Steps of the next stage as steps of the stage below. -/
theorem Stage.iterate_next {r : RtcReg} {top weight n : Nat} {step next : RtcFile → RtcFile}
    (h : Stage r top weight step next) (hnext : ∀ f, f.inRange = true → Forward n f (next f)) (q : Nat) {f : RtcFile}
    (hf : f.inRange = true) : next^[q] f = step^[(top + 1) * q] f := by
  rw [Function.iterate_mul]
  induction q with
  | zero => rfl
  | succ q ih =>
    rw [Function.iterate_succ_apply', Function.iterate_succ_apply', ← ih, h.iterate_turn (inRange_iterate hnext q hf)]

section SecondBySecond

variable {f : RtcFile}

theorem iterate_advanceMinute (q : Nat) (h : f.inRange = true) : advanceMinute^[q] f = advanceSecond^[60 * q] f :=
  stage_seconds.iterate_next advanceMinute_forward q h

theorem iterate_advanceHour (q : Nat) (h : f.inRange = true) : advanceHour^[q] f = advanceSecond^[3600 * q] f := by
  rw [stage_minutes.iterate_next advanceHour_forward q h, iterate_advanceMinute _ h, ← Nat.mul_assoc]

theorem iterate_advanceDay (q : Nat) (h : f.inRange = true) : advanceDay^[q] f = advanceSecond^[86400 * q] f := by
  rw [stage_hours.iterate_next advanceDay_forward q h, iterate_advanceHour _ h, ← Nat.mul_assoc]

/-- Days, hours and minutes forward are so many seconds forward, and together they are all of them. -/
theorem advanceElapsed_eq_iterate (e : Nat) (h : f.inRange = true) : advanceElapsed e f = advanceSecond^[e] f := by
  have hdays := inRange_iterate advanceDay_forward (e / 86400) h
  have hhours := inRange_iterate advanceHour_forward (e % 86400 / 3600) hdays
  simp only [advanceElapsed]
  rw [iterate_advanceMinute _ hhours, iterate_advanceHour _ hdays, iterate_advanceDay _ h, ← Function.iterate_add_apply,
    ← Function.iterate_add_apply, ← Function.iterate_add_apply]
  exact congrArg (advanceSecond^[·] f) (by omega)

theorem advanceElapsed_inRange (e : Nat) (h : f.inRange = true) : (advanceElapsed e f).inRange = true := by
  rw [advanceElapsed_eq_iterate e h]
  exact inRange_iterate advanceSecond_forward e h

end SecondBySecond

/-- Settles O35: on files in range the fast-forward is that many steps of a second. -/
theorem fastForwardEqualsSecondBySecond : Obligations.FastForwardEqualsSecondBySecond := by
  unfold Obligations.FastForwardEqualsSecondBySecond
  exact fun e f => advanceElapsed_eq_iterate e

end Sys2Proof.Machine

/-! SUPPORT. The preconditions of `CON` (00_scope.md R12): what it refuses, in the order of its tests, and that what it does not
refuse can be built. -/

namespace Sys2Proof.Machine

/-! ### The tests, one by one -/

theorem saveBlockProblem_of_later {now : Time} {r : Rtc} (hrange : r.inRange = true)
    (htime : now.toNat < r.lastSave.toNat) : saveBlockProblem now r = some .clockBeforeSave :=
  (if_pos hrange).trans (if_neg (Nat.not_le.2 htime))

theorem saveBlockProblem_of_not_inRange {now : Time} {r : Rtc} (hrange : r.inRange = false) :
    saveBlockProblem now r = some .saveFileRtcRange :=
  if_neg (ne_true_of_eq_false hrange)

section Tests

variable {t : CartType} {s : State} {f : Memory}

theorem conProblem_of_image (h : imageSizeOk s.port.con.img = false) : conProblem t s = some .imageSize := by
  simp [conProblem, h]

theorem conProblem_of_file (himg : imageSizeOk s.port.con.img = true) (hatt : attachedAs t.variant t.hasBattery = true)
    (hfound : saveFileFound s = some f) : conProblem t s = saveFileProblem t f s := by
  simp [conProblem, himg, hatt, hfound]

theorem saveFileProblem_of_size (h : f.size ≠ builtSize t s) : saveFileProblem t f s = some .saveFileSize :=
  if_neg h

/-- A file of the right size is tested by the RTC that is loaded from it, on `WideClock`. -/
theorem saveFileProblem_of_wideClock (hsize : f.size = builtSize t s) (hfound : saveFileFound s = some f)
    (hv : t.variant = .wideClock) : saveFileProblem t f s = saveBlockProblem s.port.now (loadedRtc t s) := by
  have hfits : f.size = storeSizeOf t.variant s.port.con.ramSizeBytes := hsize
  rw [saveFileProblem, if_pos hfits, loadedRtc, if_pos hv, loadedBy_of_some hfound, hv]

theorem exec_con_of_problem {r : Refusal} (htype : typeOf s.params.typeTable s.port.con.cartridgeType = some t)
    (h : conProblem t s = some r) : exec .con s = .refused r := by
  show execCon s = _
  simp only [execCon, htype, h]

end Tests

/-- Settles O43: the three tests in their order, the last on the RTC that is loaded, of which `g` gives the bytes. -/
theorem constructRefusesBrokenPreconditions : Obligations.ConstructRefusesBrokenPreconditions := by
  unfold Obligations.ConstructRefusesBrokenPreconditions
  intro s t htype
  refine ⟨fun himg => exec_con_of_problem htype (conProblem_of_image ?_), fun himg himg' hbat hv f hfile => ?_⟩
  · rw [← Bool.not_eq_true, imageSizeOk_iff]
    omega
  · have hatt : attachedAs t.variant t.hasBattery = true := by simp [attachedAs, hbat, hv]
    have hfound := saveFileFound_eq_some hfile
    have hproblem := conProblem_of_file (imageSizeOk_iff.2 ⟨himg, himg'⟩) hatt hfound
    refine ⟨fun hsize => exec_con_of_problem htype (hproblem.trans (saveFileProblem_of_size ?_)),
      fun g hinv hsize hclock hg => ?_⟩
    · rwa [builtSize, storeSizeOf_eq]
    · have hbuilt : f.size = builtSize t s := by rw [hsize, builtSize, storeSizeOf_eq, if_pos hclock]
      have hloaded : rtcAt g s.port.con.ramSizeBytes = loadedRtc t s := by
        rw [loadedRtc, if_pos hclock]
        refine rtcAt_congr fun j hj => ?_
        have hk : s.port.con.ramSizeBytes + j < f.size := by omega
        rw [hg _ hk, read_loadedBy, hfound, hbuilt]
        exact congrArg _ (read_snapshot_resetInstance hinv (hbuilt ▸ hk)).symm
      rw [hloaded]
      rw [saveFileProblem_of_wideClock hbuilt hfound hclock] at hproblem
      exact ⟨fun hrange => exec_con_of_problem htype (hproblem.trans (saveBlockProblem_of_not_inRange hrange)),
        fun hrange htime => exec_con_of_problem htype (hproblem.trans (saveBlockProblem_of_later hrange htime))⟩

/-! ### What is not refused -/

theorem imageSizeOk_of_no_problem {t : CartType} {s : State} (hok : conProblem t s = none) :
    imageSizeOk s.port.con.img = true := by
  by_contra himg
  rw [conProblem_of_image (Bool.eq_false_of_not_eq_true himg)] at hok
  cases hok

theorem of_saveBlockProblem_eq_none {now : Time} {r : Rtc} (h : saveBlockProblem now r = none) :
    r.inRange = true ∧ r.lastSave.toNat ≤ now.toNat := by
  have hrange : r.inRange = true := by
    by_contra hrange
    rw [saveBlockProblem_of_not_inRange (Bool.eq_false_of_not_eq_true hrange)] at h
    cases h
  refine ⟨hrange, ?_⟩
  by_contra htime
  rw [saveBlockProblem_of_later hrange (Nat.lt_of_not_le htime)] at h
  cases h

/-- A `CON` of an attached instance that meets no problem meets the preconditions. -/
theorem buildable_of_no_problem {t : CartType} {s : State} (hinv : s.Inv)
    (htype : typeOf s.params.typeTable s.port.con.cartridgeType = some t)
    (hatt : attachedAs t.variant t.hasBattery = true) (hok : conProblem t s = none) : Buildable t s := by
  have hclock : (loadedRtc t s).inRange = true ∧ (loadedRtc t s).lastSave.toNat ≤ s.port.now.toNat := by
    by_cases hv : t.variant = .wideClock
    · cases hfound : saveFileFound s with
      | none =>
        rw [loadedRtc_of_none hinv hfound]
        exact ⟨rfl, le_rfl⟩
      | some f =>
        have hsize := size_saveFileFound hok hatt hfound
        rw [conProblem_of_file (imageSizeOk_of_no_problem hok) hatt hfound,
          saveFileProblem_of_wideClock hsize hfound hv] at hok
        exact of_saveBlockProblem_eq_none hok
    · rw [loadedRtc, if_neg hv]
      exact ⟨rfl, le_rfl⟩
  exact ⟨htype, hatt, imageSizeOk_of_no_problem hok, fun f => size_saveFileFound hok hatt, hclock.1, hclock.2⟩

end Sys2Proof.Machine

/-! SUPPORT. The invariant along a step (10_state.md R24, R31, R37, R38, 45_persistent_store.md R283, R287): what each procedure of
the store and the clock keeps of it, what `CON` builds, and that the RTC block of the store stays in range unless `open` falls
short. -/

namespace Sys2Proof.Machine

/-! ### The ranges of a block -/

theorem Rtc.inRange_iff_files {r : Rtc} : r.inRange = true ↔ r.live.inRange = true ∧ r.latched.inRange = true := by
  simp [Rtc.inRange]

/-- The bytes of the block that have a range, with the largest value (10_state.md R31, 45_persistent_store.md R282). -/
def clockRanges : List (Nat × Nat) := [(0, 59), (1, 59), (2, 23), (5, 59), (6, 59), (7, 23)]

theorem lt_of_mem_clockRanges : ∀ p ∈ clockRanges, p.1 < 22 := by decide

theorem Rtc.inRange_iff_block {r : Rtc} :
    r.inRange = true ↔ ∀ p ∈ clockRanges, ((rtcBlock r).getD p.1 0).toNat ≤ p.2 := by
  simp [Rtc.inRange, RtcFile.inRange_iff, clockRanges, rtcBlock, RtcFile.bytes, and_assoc]

theorem inRange_rtcAt_iff {m : Memory} {off : Nat} :
    (rtcAt m off).inRange = true ↔ ∀ p ∈ clockRanges, (m.read (off + p.1)).toNat ≤ p.2 := by
  rw [Rtc.inRange_iff_block, rtcBlock_rtcAt]
  refine forall₂_congr fun p hp => ?_
  rw [Memory.getD_readList m off (lt_of_mem_clockRanges p hp)]

/-- However far the persist of a block in range gets, over a block in range it leaves one. -/
theorem inRange_persistedStore {st : Memory} {off : Nat} {r : Rtc} (tr : Transfer) (hwf : st.wf = true)
    (hfit : off + 22 ≤ st.size) (hr : r.inRange = true) (hst : (rtcAt st off).inRange = true) :
    (rtcAt (persistedStore st off r tr) off).inRange = true := by
  rw [inRange_rtcAt_iff]
  intro p hp
  rw [read_persistedStore hwf hfit]
  split
  · rw [Nat.add_sub_cancel_left]
    exact Rtc.inRange_iff_block.1 hr p hp
  · exact inRange_rtcAt_iff.1 hst p hp

/-! ### Steps that keep the invariant -/

/-- From `s` on the invariant holds still, and the RTC block of the store is in range if it was. -/
structure Keeps (s t : State) : Prop where
  inv : t.Inv
  clock : s.StoreClockInRange → t.StoreClockInRange

theorem Keeps.trans {s t u : State} (h : Keeps s t) (h' : Keeps t u) : Keeps s u :=
  ⟨h'.inv, fun hclock => h'.clock (h.clock hclock)⟩

section Keeps

variable {s : State}

/-- A new store of the size and the form of the old one, with the same bytes behind the RAM. -/
theorem keeps_store (hinv : s.Inv) {st st' : Memory} {log : List Warning} (hst : s.store = some st) (hwf : st'.wf = true)
    (hsize : st'.size = st.size) (hread : ∀ k, s.cfg.ramSize ≤ k → st'.read k = st.read k) :
    Keeps s { s with store := some st', log := log } := by
  constructor
  · refine { hinv with storeIff := ?_, storeOk := ?_ }
    · rw [← hinv.storeIff, hst]
      rfl
    · rintro _ ⟨⟩
      exact storeFits_iff.2 ⟨hwf, hsize.trans (storeFits_iff.1 (hinv.storeOk st hst)).2⟩
  · rintro hclock hv _ ⟨⟩
    rw [rtcAt_congr fun j _ => hread _ (Nat.le_add_right _ j)]
    exact hclock hv st hst

theorem keeps_ram (hinv : s.Inv) {ram : Memory} {log : List Warning} (hwf : ram.wf = true) (hsize : ram.size = s.ram.size) :
    Keeps s { s with ram := ram, log := log } :=
  ⟨{ hinv with ramWf := hwf, ramSize := hsize.trans hinv.ramSize }, id⟩

theorem keeps_putRam (hinv : s.Inv) (off : Nat) (d : Byte) : Keeps s (putRam off d s) :=
  keeps_ram hinv (Memory.wf_write hinv.ramWf off d) (Memory.size_write _ off d)

theorem keeps_mirrorByte (hinv : s.Inv) {off : Nat} (hoff : off < s.cfg.ramSize) (d : Byte) :
    Keeps s (mirrorByte off d s) := by
  obtain ⟨-, h⟩ | ⟨st, hst, ⟨-, h⟩ | ⟨-, h⟩⟩ := mirrorByte_cases off d s <;> rw [h]
  · exact ⟨hinv, id⟩
  · have hfits := hinv.storeOk st hst
    have hwf := (storeFits_iff.1 hfits).1
    refine keeps_store hinv hst (Memory.wf_write hwf off d) (Memory.size_write st off d) fun k hk => ?_
    rw [Memory.read_write hwf (hoff.trans_le (ramSize_le_size_of_storeFits hfits)), if_neg (by omega)]
  · exact ⟨{ hinv with }, id⟩

theorem keeps_loadRam (hinv : s.Inv) : Keeps s (loadRam s) := by
  obtain ⟨-, h⟩ | ⟨st, log, hst, -, -, h⟩ := loadRam_cases s <;> rw [h]
  · exact ⟨hinv, id⟩
  · refine keeps_ram hinv (Memory.wf_copyFirst hinv.ramWf (storeFits_iff.1 (hinv.storeOk st hst)).1 ?_) rfl
    rw [hinv.ramSize]
    exact Transfer.moved_le _ _

theorem keeps_saveRam (hinv : s.Inv) : Keeps s (saveRam s) := by
  obtain ⟨-, h⟩ | ⟨st, log, hst, -, -, h⟩ := saveRam_cases s <;> rw [h]
  · exact ⟨hinv, id⟩
  · have hfits := hinv.storeOk st hst
    have hmoved := s.port.transfer.moved_le s.cfg.ramSize
    refine keeps_store hinv hst (Memory.wf_copyFirst (storeFits_iff.1 hfits).1 hinv.ramWf
      (hmoved.trans (ramSize_le_size_of_storeFits hfits))) rfl fun k hk => ?_
    rw [Memory.read_copyFirst, if_neg (by omega)]

theorem keeps_linearEdge (hinv : s.Inv) (new : Bool) : Keeps s (linearEdge new s) := by
  unfold linearEdge
  split <;> split
  · exact ⟨hinv, id⟩
  · exact keeps_loadRam hinv
  · exact keeps_saveRam hinv
  · exact ⟨hinv, id⟩

theorem keeps_setRtc (hinv : s.Inv) {r : Rtc} (hr : r.inRange = true) : Keeps s (s.setRtc r) :=
  ⟨{ hinv with rtcOk := hr }, id⟩

theorem keeps_persistRtcBlock (hinv : s.Inv) (hv : s.cfg.variant = .wideClock) (now : Time) :
    Keeps s (persistRtcBlock now s) := by
  cases hst : s.store with
  | none =>
    have heq : persistRtcBlock now s = s.setRtc { s.rtc with lastSave := now } := by
      simp [persistRtcBlock, hst]
    rw [heq]
    exact keeps_setRtc hinv hinv.rtcOk
  | some st =>
    have hfits := hinv.storeOk st hst
    obtain ⟨hwf, hsize⟩ := storeFits_iff.1 hfits
    have hfit := block_fits_of_storeFits hv hfits
    rw [persistRtcBlock_of_store now hst]
    constructor
    · refine { hinv with storeIff := ?_, storeOk := ?_, rtcOk := hinv.rtcOk }
      · rw [← hinv.storeIff, hst]
        rfl
      · rintro _ ⟨⟩
        exact storeFits_iff.2 ⟨Memory.wf_writeList hwf _ _, (size_persistedStore ..).trans hsize⟩
    · rintro hclock - _ ⟨⟩
      exact inRange_persistedStore _ hwf hfit hinv.rtcOk (hclock hv st hst)

/-- The check of an RTC write keeps the file in range (43_rtc.md R233). -/
theorem set_inRange {f : RtcFile} {r : RtcReg} {d : Byte} (h : f.inRange = true) (hd : rtcAccepts r d = true) :
    (f.set r d).inRange = true := by
  obtain ⟨hs, hm, hh⟩ := RtcFile.inRange_iff.1 h
  cases r with
  | seconds => exact RtcFile.inRange_iff.2 ⟨Nat.le_of_lt_succ (of_decide_eq_true hd), hm, hh⟩
  | minutes => exact RtcFile.inRange_iff.2 ⟨hs, Nat.le_of_lt_succ (of_decide_eq_true hd), hh⟩
  | hours => exact RtcFile.inRange_iff.2 ⟨hs, hm, Nat.le_of_lt_succ (of_decide_eq_true hd)⟩
  | dayLow | dayHigh => exact h

theorem keeps_writeRtc (hinv : s.Inv) (hv : s.cfg.variant = .wideClock) {r : RtcReg} {d : Byte}
    (hd : rtcAccepts r d = true) : Keeps s (writeRtc r d s) := by
  obtain ⟨hlive, hlatched⟩ := Rtc.inRange_iff_files.1 hinv.rtcOk
  have hset : Keeps s (s.setRtc { s.rtc with live := s.rtc.live.set r d, latched := s.rtc.latched.set r d }) :=
    keeps_setRtc hinv (Rtc.inRange_iff_files.2 ⟨set_inRange hlive hd, set_inRange hlatched hd⟩)
  exact hset.trans (keeps_persistRtcBlock hset.inv hv s.port.now)

theorem keeps_emitSecond (hinv : s.Inv) (hv : s.cfg.variant = .wideClock) : Keeps s (emitSecond s) := by
  obtain ⟨hlive, hlatched⟩ := Rtc.inRange_iff_files.1 hinv.rtcOk
  have hset : Keeps s (s.setRtc { s.rtc with live := advanceSecond s.rtc.live }) :=
    keeps_setRtc hinv (Rtc.inRange_iff_files.2 ⟨(advanceSecond_forward _ hlive).inRange, hlatched⟩)
  have hreduce : ∀ {u : State}, u.Inv → Keeps u (reduceCounter u) := fun hu => keeps_setRtc hu hu.rtcOk
  unfold emitSecond
  dsimp only
  split
  · have hpersist := keeps_persistRtcBlock hset.inv hv s.port.now
    exact hset.trans (hpersist.trans (hreduce hpersist.inv))
  · have hcounter := hreduce hset.inv
    exact hset.trans (hcounter.trans (keeps_persistRtcBlock hcounter.inv hv s.port.now))

theorem keeps_latchCopy (hinv : s.Inv) (d : Byte) : Keeps s (latchCopy d s) := by
  obtain ⟨hlive, -⟩ := Rtc.inRange_iff_files.1 hinv.rtcOk
  unfold latchCopy
  split
  · exact keeps_setRtc hinv (Rtc.inRange_iff_files.2 ⟨hlive, hlive⟩)
  · exact ⟨hinv, id⟩

/-- The result, the phase, the log and the bank registers are no part of the invariant, but for `bankSelect`. -/
theorem Keeps.setResult {t : State} (h : Keeps s t) (r : Result) : Keeps s (t.setResult r) :=
  h.trans ⟨{ h.inv with }, id⟩

theorem bankSelectOfDatum_cases (d : Byte) : bankSelectOfDatum d = 0 ∨ bankSelectOfDatum d = 2 := by
  rw [bankSelectOfDatum_eq]
  split
  · exact .inr rfl
  · exact .inl rfl

/-- The offset stays a variable here: with a concrete one the kernel would compute where the byte is placed. -/
theorem writeRam_keeps (hinv : s.Inv) {off : Nat} {d : Byte} {mirror : State → State}
    (h : off < s.cfg.ramSize → ∀ {u : State}, u.Inv → u.cfg = s.cfg → Keeps u (mirror u)) :
    EndsIn (Keeps s) (writeRam off d mirror s) := by
  unfold writeRam
  split
  · next hoff =>
    have hput := keeps_putRam hinv off d
    exact endsIn_complete ((hput.trans (h hoff hput.inv rfl)).setResult _)
  · exact endsIn_raise ⟨{ hinv with }, id⟩

/-- Every operation but `CON`. -/
theorem exec_keeps {i : Instr} (hi : i ≠ .con) (hinv : s.Inv) : EndsIn (Keeps s) (exec i s) := by
  have hself : ∀ r, Keeps s (s.setResult r) := fun _ => ⟨{ hinv with }, id⟩
  have hfault : ∀ f, Keeps s ((s.setPhase (.faulted f)).setResult (.fault f)) := fun _ => ⟨{ hinv with }, id⟩
  cases i with
  | con => exact absurd rfl hi
  | roRdRom0 | roRdRomx | linRdRom0 | linRdRomx | wcRdRom0 | wcRdRomx | wbRdRom0 | wbRdRomx =>
    exact endsIn_whenRow (endsIn_readImage hself hfault)
  | linRdRam | wcRdRam | wbRdRam => exact endsIn_whenRow (endsIn_readRam hself hfault)
  | linWrRam => exact endsIn_whenRow (writeRam_keeps hinv fun _ _ hu _ => ⟨hu, id⟩)
  | wcWrRam | wbWrRam =>
    exact endsIn_whenRow (writeRam_keeps hinv fun hoff _ hu hcfg => keeps_mirrorByte hu (hcfg ▸ hoff) _)
  | linWrRamen a d =>
    have hedge := keeps_linearEdge hinv (enables d)
    exact endsIn_whenRow (endsIn_complete (hedge.trans ⟨{ hedge.inv with bankSelectOk := hinv.bankSelectOk }, id⟩))
  | linWrBanksel a d => exact endsIn_whenRow (endsIn_complete ⟨{ hinv with bankSelectOk := bankSelectOfDatum_cases d }, id⟩)
  | wcWrLatch a d =>
    have hcopy := keeps_latchCopy hinv d
    exact endsIn_whenRow (endsIn_complete (hcopy.trans ⟨{ hcopy.inv with }, id⟩))
  | wcRdRtc => exact endsIn_whenRow (endsIn_withRtcReg fun _ => endsIn_complete (hself _))
  | wcWrRtc a d =>
    intro t ht
    obtain ⟨⟨-, -, happ⟩, hm⟩ := whenRow_next ht
    refine endsIn_withRtcReg (fun r => endsIn_complete ?_) t hm
    split
    · next hd => exact (keeps_writeRtc hinv (wideClock_of_applies happ) hd).setResult _
    · exact hself _
  | wcTick =>
    intro t ht
    obtain ⟨⟨-, -, happ⟩, hm⟩ := whenRow_next ht
    have haccumulate : Keeps s (accumulate s) := keeps_setRtc hinv hinv.rtcOk
    refine endsIn_complete (Keeps.setResult ?_ _) t hm
    split
    · exact haccumulate.trans (keeps_emitSecond haccumulate.inv (wideClock_of_applies happ))
    · exact haccumulate
  | _ => exact endsIn_whenRow (endsIn_complete ⟨{ hinv with }, id⟩)

end Keeps

/-! ### `CON` -/

section Construction

variable {t : CartType} {s : State}

theorem resumedRtc_inRange {runs : Bool} {now : Time} {r : Rtc} (h : r.inRange = true) :
    (resumedRtc runs now r).inRange = true := by
  obtain ⟨hlive, hlatched⟩ := Rtc.inRange_iff_files.1 h
  refine Rtc.inRange_iff_files.2 ⟨?_, hlatched⟩
  unfold resumedRtc
  dsimp only
  split
  · exact advanceElapsed_inRange _ hlive
  · exact hlive

theorem wf_builtStore (hinv : s.Inv) : (builtStore t s).wf = true := by
  unfold builtStore
  split
  · exact Memory.wf_writeList (wf_openedBy hinv) _ _
  · exact wf_openedBy hinv

/-- What `CON` builds meets the invariant when its memories and its RTC do: the registers are at their reset values. -/
theorem inv_of_built (hinv : s.Inv) (himg : imageSizeOk s.port.con.img = true) {rtc : Rtc} {ram : Memory}
    {store : Option Memory} {log : List Warning} (hram : ram.wf = true) (hsize : ram.size = s.port.con.ramSizeBytes)
    (hrtc : rtc.inRange = true) (hatt : store.isSome = attachedAs t.variant t.hasBattery)
    (hstore : ∀ st, store = some st → st.wf = true ∧ st.size = builtSize t s) :
    State.Inv { resetInstance t s with rtc := rtc, ram := ram, store := store, log := log } where
  paramsOk := hinv.paramsOk
  imageOk := himg
  imageWf := by
    have hport := hinv.portWf
    simp only [Request.wf, Bool.and_eq_true] at hport
    exact hport.1.1
  ramWf := hram
  ramSize := hsize
  storeIff := hatt
  storeOk := fun st hst => storeFits_iff.2 (hstore st hst)
  rtcOk := hrtc
  bankSelectOk := .inl rfl
  portWf := hinv.portWf
  pendingWf := hinv.pendingWf

theorem inRange_rtcAt_openedBy (h : Buildable t s) (hv : t.variant = .wideClock)
    (hopen : s.port.con.openTransfer = .complete) : (rtcAt (openedBy t s) s.port.con.ramSizeBytes).inRange = true := by
  have hfit : s.port.con.ramSizeBytes + 22 = builtSize t s := by rw [builtSize, storeSizeOf_eq, if_pos hv]
  have hcovers : s.port.con.openTransfer.covers (builtSize t s) = true := by rw [hopen]; rfl
  have hloaded : rtcAt (openedBy t s) s.port.con.ramSizeBytes = loadedRtc t s := by
    rw [loadedRtc, if_pos hv]
    exact rtcAt_congr fun j hj => read_openedBy_of_covers hcovers (by omega)
  rw [hloaded]
  exact h.inRange

/-- With a whole `open` the block that `CON` leaves in the store is in range: it is the loaded one, and over it lies what is
persisted of the resumed one (45_persistent_store.md R287, R291). -/
theorem inRange_rtcAt_builtStore (hinv : s.Inv) (h : Buildable t s) (hv : t.variant = .wideClock)
    (hopen : s.port.con.openTransfer = .complete) : (rtcAt (builtStore t s) s.port.con.ramSizeBytes).inRange = true := by
  have hfit : s.port.con.ramSizeBytes + 22 ≤ (openedBy t s).size := by
    rw [size_openedBy h.fileSize, builtSize, storeSizeOf_eq, if_pos hv]
  unfold builtStore
  split
  · exact inRange_persistedStore _ (wf_openedBy hinv) hfit (resumedRtc_inRange h.inRange)
      (inRange_rtcAt_openedBy h hv hopen)
  · exact inRange_rtcAt_openedBy h hv hopen

theorem execCon_keeps (hinv : s.Inv) :
    EndsIn (fun u => u.Inv ∧
      (s.StoreClockInRange → s.port.con.openTransfer = .complete → u.StoreClockInRange)) (exec .con s) := by
  show EndsIn _ (execCon s)
  cases htype : typeOf s.params.typeTable s.port.con.cartridgeType with
  | none =>
    rw [execCon_of_unsupported htype]
    exact endsIn_raise ⟨{ hinv with }, fun hclock _ => hclock⟩
  | some t =>
    cases hok : conProblem t s with
    | some r =>
      intro u hu
      cases (exec_con_of_problem htype hok).symm.trans hu
    | none =>
      have himg := imageSizeOk_of_no_problem hok
      cases hatt : attachedAs t.variant t.hasBattery with
      | false =>
        intro u hu
        obtain rfl := Host.Outcome.next.inj ((exec_con_of_not_attached htype himg hatt).symm.trans hu)
        refine ⟨inv_of_built hinv himg (wf_resetInstance_ram (t := t) hinv) rfl rfl hatt.symm (by rintro _ ⟨⟩), ?_⟩
        rintro - - - _ ⟨⟩
      | true =>
        have hb := buildable_of_no_problem hinv htype hatt hok
        intro u hu
        obtain rfl := Host.Outcome.next.inj ((exec_con_of_buildable hinv hb rfl rfl rfl rfl rfl).symm.trans hu)
        refine ⟨inv_of_built hinv himg (wf_loadedRam hinv) rfl (resumedRtc_inRange hb.inRange) hatt.symm ?_, ?_⟩
        · rintro _ ⟨⟩
          exact ⟨wf_builtStore hinv, size_builtStore hb⟩
        · rintro - hopen hv _ ⟨⟩
          exact inRange_rtcAt_builtStore hinv hb hv hopen

end Construction

/-! ### One step -/

/-- Settles O48: the operation of the request keeps the invariant, and a request decodes to `CON` only by `CON`'s word. -/
theorem stepKeepsTheInvariant : Obligations.StepKeepsTheInvariant := by
  unfold Obligations.StepKeepsTheInvariant
  intro s t hinv h
  obtain ⟨r, rest, i, hpending, hdecode, hexec⟩ := step_next h
  have htaken := hinv.takeRequest hpending
  by_cases hi : i = .con
  · subst hi
    obtain ⟨hnext, hclock⟩ := execCon_keeps htaken t hexec
    exact ⟨hnext, fun hs hopen => hclock hs (hopen r (by rw [hpending]; rfl) (standsFor_of_decode hdecode).1.symm)⟩
  · obtain ⟨hnext, hclock⟩ := exec_keeps hi htaken t hexec
    exact ⟨hnext, fun hs _ => hclock hs⟩

/-! ### The reset state -/

/-- Settles O47: RAM and store of the reset state are all zero, and so is its clock. -/
theorem resetMeetsTheInvariant : Obligations.ResetMeetsTheInvariant := by
  unfold Obligations.ResetMeetsTheInvariant
  refine ⟨?_, ?_, ?_⟩
  · exact {
      paramsOk := by decide
      imageOk := by decide
      imageWf := rfl
      ramWf := rfl
      ramSize := rfl
      storeIff := rfl
      storeOk := by rintro _ ⟨⟩; decide
      rtcOk := by decide
      bankSelectOk := .inl rfl
      portWf := rfl
      pendingWf := by rintro _ ⟨⟩ }
  · rintro - _ ⟨⟩ k -
    rfl
  · rintro - _ ⟨⟩
    decide

/-- The type of the cartridge of the reset request (log entry 2). -/
def resetType : CartType := { variant := .wideClock, hasRam := true, hasBattery := true, hasTimer := true }

/-- Without a save file a store is created from zero bytes, and no time has passed. -/
theorem reset_built : fastForwardIfClocked (openStore (resetInstance resetType State.reset)) = State.reset := by decide +kernel

/-- Settles O44: of the state before, `CON` looks at the parameters, the request and the queue alone. -/
theorem resetIsAConstruction : Obligations.ResetIsAConstruction := by
  unfold Obligations.ResetIsAConstruction
  intro s hparams hport hpending
  have htype : typeOf s.params.typeTable s.port.con.cartridgeType = some resetType := by
    rw [hparams, hport]
    decide
  have hfound : saveFileFound s = none := by simp only [saveFileFound, hport, State.resetRequest]
  have hok : conProblem resetType s = none := by
    simp only [conProblem, hfound, hport]
    decide
  have hreset : resetInstance resetType s = resetInstance resetType State.reset := by
    simp only [resetInstance, hparams, hport, hpending, hfound]
    rfl
  rw [exec_con_of_no_problem htype hok, hreset, reset_built]
  rfl

end Sys2Proof.Machine

/-! SUPPORT. Phases, reports and frames (60_exceptions.md R301, R304, R305, R308, 10_state.md R24 to R26, R40, 20_memory.md R87): a
fault is the fault entry and nothing else, an operation leaves at most one record, a `READ` changes no architectural state, and each
bank register has one writer. -/

namespace Sys2Proof.Machine

/-! ### The phases -/

/-- Settles O9: the phase is the first test of every operation but `CON`. -/
theorem onlyConstructLeavesATerminalPhase : Obligations.OnlyConstructLeavesATerminalPhase := by
  unfold Obligations.OnlyConstructLeavesATerminalPhase
  intro i s hphase hcon
  cases i with
  | con => exact absurd rfl hcon
  | _ => exact whenRow_of_not_live hphase _

theorem withRtcReg_ne_fault {s : State} {m : RtcReg → Out} {f : Fault} (h : ∀ r, m r ≠ .fault f) :
    withRtcReg s m ≠ .fault f := by
  unfold withRtcReg
  split
  · exact h _
  · simp
  · simp

theorem readImage_ne_fault (off : Nat) (s : State) (f : Fault) : readImage off s ≠ .fault f := by
  unfold readImage
  split <;> simp

theorem readRam_ne_fault (off : Nat) (s : State) (f : Fault) : readRam off s ≠ .fault f := by
  unfold readRam
  split <;> simp

theorem writeRam_ne_fault (off : Nat) (d : Byte) (mirror : State → State) (s : State) (f : Fault) :
    writeRam off d mirror s ≠ .fault f := by
  unfold writeRam
  split <;> simp

theorem execCon_ne_fault (s : State) (f : Fault) : execCon s ≠ .fault f := by
  unfold execCon
  split
  · simp
  · split <;> simp

/-- Every fault is taken, as a next state (60_exceptions.md R305). -/
theorem exec_ne_fault (i : Instr) (s : State) (f : Fault) : exec i s ≠ .fault f := by
  cases i with
  | con => exact execCon_ne_fault s f
  | roRdRom0 | roRdRomx | linRdRom0 | linRdRomx | wcRdRom0 | wcRdRomx | wbRdRom0 | wbRdRomx =>
    exact whenRow_ne_fault (readImage_ne_fault _ s f)
  | linRdRam | wcRdRam | wbRdRam => exact whenRow_ne_fault (readRam_ne_fault _ s f)
  | linWrRam | wcWrRam | wbWrRam => exact whenRow_ne_fault (writeRam_ne_fault _ _ _ s f)
  | wcRdRtc | wcWrRtc => exact whenRow_ne_fault (withRtcReg_ne_fault fun _ => complete_ne_fault _ _ f)
  | _ => exact whenRow_ne_fault (complete_ne_fault _ _ f)

theorem step_ne_fault (s : State) (f : Fault) : step s ≠ .fault f := by
  unfold step
  split
  · simp
  · split
    · simp
    · exact exec_ne_fault _ _ f

/-! ### Faults and warnings -/

/-- From `s` to `t` the phase stays and at most one record is new in the log. -/
def NotesOnce (s t : State) : Prop := t.phase = s.phase ∧ (t.log = s.log ∨ ∃ w, t.log = s.log ++ [w])

section NotesOnce

variable (s : State)

theorem notesOnce_mirrorByte (off : Nat) (d : Byte) : NotesOnce s (mirrorByte off d s) := by
  obtain ⟨-, h⟩ | ⟨st, -, ⟨-, h⟩ | ⟨-, h⟩⟩ := mirrorByte_cases off d s <;> rw [h]
  · exact ⟨rfl, .inl rfl⟩
  · exact ⟨rfl, .inl rfl⟩
  · exact ⟨rfl, .inr ⟨_, rfl⟩⟩

theorem notesOnce_loadRam : NotesOnce s (loadRam s) := by
  obtain ⟨-, h⟩ | ⟨st, log, -, hlog, -, h⟩ := loadRam_cases s <;> rw [h]
  · exact ⟨rfl, .inl rfl⟩
  · exact ⟨rfl, hlog.imp_right fun h => ⟨_, h⟩⟩

theorem notesOnce_saveRam : NotesOnce s (saveRam s) := by
  obtain ⟨-, h⟩ | ⟨st, log, -, hlog, -, h⟩ := saveRam_cases s <;> rw [h]
  · exact ⟨rfl, .inl rfl⟩
  · exact ⟨rfl, hlog.imp_right fun h => ⟨_, h⟩⟩

theorem notesOnce_linearEdge (new : Bool) : NotesOnce s (linearEdge new s) := by
  unfold linearEdge
  split <;> split
  · exact ⟨rfl, .inl rfl⟩
  · exact notesOnce_loadRam s
  · exact notesOnce_saveRam s
  · exact ⟨rfl, .inl rfl⟩

theorem notesOnce_persistRtcBlock (now : Time) : NotesOnce s (persistRtcBlock now s) := by
  obtain ⟨-, h⟩ | ⟨st, log, -, hlog, -, h⟩ := persistRtcBlock_cases now s <;> rw [h]
  · exact ⟨rfl, .inl rfl⟩
  · exact ⟨rfl, hlog.imp_right fun h => ⟨_, h⟩⟩

/-- A second is persisted once, whatever the order. -/
theorem notesOnce_emitSecond : NotesOnce s (emitSecond s) := by
  unfold emitSecond
  dsimp only
  split
  · exact notesOnce_persistRtcBlock (s.setRtc _) _
  · exact notesOnce_persistRtcBlock (reduceCounter (s.setRtc _)) _

end NotesOnce

/-- What an operation can report: it is the fault entry, or it ends outside `Faulted` with at most one record. -/
def Reports (s t : State) : Prop :=
  (∃ f, t = { s with phase := .faulted f, result := .fault f }) ∨
  (∀ f, t.phase ≠ .faulted f) ∧ (t.log = s.log ∨ ∃ w, t.log = s.log ++ [w])

section Reports

variable {s : State}

theorem reports_of_notesOnce {t : State} (hlive : s.phase = .live) (h : NotesOnce s t) : Reports s t :=
  .inr ⟨fun f => by rw [h.1, hlive]; simp, h.2⟩

theorem endsIn_whenRow_of_live {P : State → Prop} {i : Instr} {m : Out} (h : s.phase = .live → EndsIn P m) :
    EndsIn P (whenRow i s m) := fun t ht =>
  h (whenRow_next ht).1.1 t (whenRow_next ht).2

/-- The offset stays a variable here: with a concrete one the kernel would compute where the byte is placed. -/
theorem writeRam_reports {off : Nat} {d : Byte} {mirror : State → State} (hlive : s.phase = .live)
    (h : ∀ u, NotesOnce u (mirror u)) : EndsIn (Reports s) (writeRam off d mirror s) :=
  endsIn_writeRam (reports_of_notesOnce hlive (h (putRam off d s))) fun f => .inl ⟨f, rfl⟩

/-- Every operation but `CON`. -/
theorem exec_reports {i : Instr} (hi : i ≠ .con) (s : State) : EndsIn (Reports s) (exec i s) := by
  have hfault : ∀ f, Reports s ((s.setPhase (.faulted f)).setResult (.fault f)) := fun f => .inl ⟨f, rfl⟩
  cases i with
  | con => exact absurd rfl hi
  | fin => exact endsIn_whenRow (endsIn_complete (.inr ⟨fun _ => Phase.noConfusion, .inl rfl⟩))
  | roRdRom0 | roRdRomx | linRdRom0 | linRdRomx | wcRdRom0 | wcRdRomx | wbRdRom0 | wbRdRomx =>
    exact endsIn_whenRow_of_live fun hlive =>
      endsIn_readImage (fun _ => reports_of_notesOnce hlive ⟨rfl, .inl rfl⟩) hfault
  | linRdRam | wcRdRam | wbRdRam =>
    exact endsIn_whenRow_of_live fun hlive =>
      endsIn_readRam (fun _ => reports_of_notesOnce hlive ⟨rfl, .inl rfl⟩) hfault
  | linWrRam => exact endsIn_whenRow_of_live fun hlive => writeRam_reports hlive fun _ => ⟨rfl, .inl rfl⟩
  | wcWrRam | wbWrRam =>
    exact endsIn_whenRow_of_live fun hlive => writeRam_reports hlive fun u => notesOnce_mirrorByte u _ _
  | linWrRamen =>
    exact endsIn_whenRow_of_live fun hlive => endsIn_complete (reports_of_notesOnce hlive (notesOnce_linearEdge s _))
  | wcWrLatch =>
    refine endsIn_whenRow_of_live fun hlive => endsIn_complete (reports_of_notesOnce hlive ?_)
    rw [latchCopy_eq]
    exact ⟨rfl, .inl rfl⟩
  | wcRdRtc =>
    exact endsIn_whenRow_of_live fun hlive =>
      endsIn_withRtcReg fun _ => endsIn_complete (reports_of_notesOnce hlive ⟨rfl, .inl rfl⟩)
  | wcWrRtc =>
    refine endsIn_whenRow_of_live fun hlive =>
      endsIn_withRtcReg fun _ => endsIn_complete (reports_of_notesOnce hlive ?_)
    split
    · exact notesOnce_persistRtcBlock (s.setRtc _) _
    · exact ⟨rfl, .inl rfl⟩
  | wcTick =>
    refine endsIn_whenRow_of_live fun hlive => endsIn_complete (reports_of_notesOnce hlive ?_)
    split
    · exact notesOnce_emitSecond (accumulate s)
    · exact ⟨rfl, .inl rfl⟩
  | roRdWin | linRdRamoff | wcRdOff | wbRdRamoff | roWrWin | linWrRamoff | wcWrOff | wbWrRamoff | wcRdBadsel | wcWrBadsel =>
    exact endsIn_whenRow_of_live fun hlive => endsIn_complete (reports_of_notesOnce hlive ⟨rfl, .inr ⟨_, rfl⟩⟩)
  | _ => exact endsIn_whenRow_of_live fun hlive => endsIn_complete (reports_of_notesOnce hlive ⟨rfl, .inl rfl⟩)

end Reports

/-- Settles O56: the fault entry leaves the log as it was. -/
theorem anOperationReportsAtMostOnce : Obligations.AnOperationReportsAtMostOnce := by
  unfold Obligations.AnOperationReportsAtMostOnce
  intro i s t h hcon
  obtain ⟨f, rfl⟩ | ⟨hphase, hlog⟩ := exec_reports hcon s t h
  · exact .inl rfl
  · exact hlog.imp_right fun hone => ⟨hone, hphase⟩

@[simp] theorem phase_openStore (s : State) : (openStore s).phase = s.phase := by
  obtain ⟨-, h⟩ | ⟨-, log, -, ⟨-, h⟩ | ⟨f, -, h⟩⟩ := openStore_cases s <;> rw [h]

@[simp] theorem phase_fastForwardIfClocked (s : State) : (fastForwardIfClocked s).phase = s.phase := by
  unfold fastForwardIfClocked
  split
  · exact (notesOnce_persistRtcBlock (s.setRtc _) _).1
  · rfl

/-- What `CON` builds is live, so it faults only on a type it does not support. -/
theorem execCon_faultEntry (s : State) :
    EndsIn (fun t => ∀ f, t.phase = .faulted f → t = { s with phase := .faulted f, result := .fault f }) (execCon s) := by
  unfold execCon
  split
  · refine endsIn_raise ?_
    rintro f ⟨⟩
    rfl
  · split
    · rintro _ ⟨⟩
    · refine endsIn_complete fun f hf => ?_
      simp [resetInstance] at hf

/-- Settles O8: only the fault entry ends in `Faulted`, and no operation ends in the outcome `fault`. -/
theorem faultEntryChangesOnlyPhaseAndResult : Obligations.FaultEntryChangesOnlyPhaseAndResult := by
  unfold Obligations.FaultEntryChangesOnlyPhaseAndResult
  refine ⟨fun i s t f h hphase => ?_, step_ne_fault⟩
  by_cases hi : i = .con
  · subst hi
    exact execCon_faultEntry s t h f hphase
  · obtain ⟨g, rfl⟩ | ⟨hnot, -⟩ := exec_reports hi s t h
    · obtain rfl : g = f := Phase.faulted.inj hphase
      rfl
    · exact absurd hphase (hnot f)

/-! ### Reads -/

/-- All that a `READ` can do: append a warning, or take an index fault. -/
def ReadOnly (s t : State) : Prop :=
  t = { s with phase := t.phase, log := t.log, result := t.result } ∧
  (t.phase = s.phase ∨ ∃ off, t.phase = .faulted (.romIndex off) ∨ t.phase = .faulted (.ramIndex off)) ∧
  (t.log = s.log ∨ ∃ w, t.log = s.log ++ [w])

theorem readImage_readOnly (off : Nat) (s : State) : EndsIn (ReadOnly s) (readImage off s) := by
  unfold readImage
  split
  · exact endsIn_complete ⟨rfl, .inl rfl, .inl rfl⟩
  · exact endsIn_raise ⟨rfl, .inr ⟨off, .inl rfl⟩, .inl rfl⟩

theorem readRam_readOnly (off : Nat) (s : State) : EndsIn (ReadOnly s) (readRam off s) := by
  unfold readRam
  split
  · exact endsIn_complete ⟨rfl, .inl rfl, .inl rfl⟩
  · exact endsIn_raise ⟨rfl, .inr ⟨off, .inr rfl⟩, .inl rfl⟩

theorem exec_readOnly {i : Instr} (hi : isRead i = true) (s : State) : EndsIn (ReadOnly s) (exec i s) := by
  cases i with
  | roRdRom0 | roRdRomx | linRdRom0 | linRdRomx | wcRdRom0 | wcRdRomx | wbRdRom0 | wbRdRomx =>
    exact endsIn_whenRow (readImage_readOnly _ s)
  | linRdRam | wcRdRam | wbRdRam => exact endsIn_whenRow (readRam_readOnly _ s)
  | wcRdRtc => exact endsIn_whenRow (endsIn_withRtcReg fun _ => endsIn_complete ⟨rfl, .inl rfl, .inl rfl⟩)
  | roRdWin | linRdRamoff | wcRdOff | wbRdRamoff | wcRdBadsel =>
    exact endsIn_whenRow (endsIn_complete ⟨rfl, .inl rfl, .inr ⟨_, rfl⟩⟩)
  | roRdExt | linRdExt | wcRdExt | wbRdExt => exact endsIn_whenRow (endsIn_complete ⟨rfl, .inl rfl, .inl rfl⟩)
  | _ => simp [isRead, encode] at hi

/-- Settles O55: by the kind of read. -/
theorem readsChangeNoArchitecturalState : Obligations.ReadsChangeNoArchitecturalState := by
  unfold Obligations.ReadsChangeNoArchitecturalState
  exact fun i s t hi => exec_readOnly hi s t

/-! ### The bank registers -/

/-- The bank registers of the three variants that have any. -/
def State.banks (s : State) : LinearRegs × WideClockRegs × WideBankRegs := (s.lin, s.wc, s.wb)

theorem State.banks_eq_iff {s t : State} : t.banks = s.banks ↔ t.lin = s.lin ∧ t.wc = s.wc ∧ t.wb = s.wb := by
  simp [State.banks]

@[simp] theorem banks_mirrorByte (off : Nat) (d : Byte) (s : State) : (mirrorByte off d s).banks = s.banks := by
  obtain ⟨-, h⟩ | ⟨st, -, ⟨-, h⟩ | ⟨-, h⟩⟩ := mirrorByte_cases off d s <;> rw [h] <;> rfl

@[simp] theorem banks_linearEdge (new : Bool) (s : State) : (linearEdge new s).banks = s.banks := by
  have hload : (loadRam s).banks = s.banks := by
    obtain ⟨-, h⟩ | ⟨st, log, -, -, -, h⟩ := loadRam_cases s <;> rw [h]
    rfl
  have hsave : (saveRam s).banks = s.banks := by
    obtain ⟨-, h⟩ | ⟨st, log, -, -, -, h⟩ := saveRam_cases s <;> rw [h]
    rfl
  unfold linearEdge
  split <;> split
  · rfl
  · exact hload
  · exact hsave
  · rfl

@[simp] theorem banks_persistRtcBlock (now : Time) (s : State) : (persistRtcBlock now s).banks = s.banks := by
  obtain ⟨-, h⟩ | ⟨st, log, -, -, -, h⟩ := persistRtcBlock_cases now s <;> rw [h] <;> rfl

@[simp] theorem banks_emitSecond (s : State) : (emitSecond s).banks = s.banks := by
  unfold emitSecond
  dsimp only
  split
  · exact banks_persistRtcBlock s.port.now (s.setRtc _)
  · exact banks_persistRtcBlock s.port.now (reduceCounter (s.setRtc _))

/-- The operations that write a bank register (10_state.md R24 to R26). -/
def writesBank : Instr → Bool
  | .linWrRamen _ _ | .linWrRomb _ _ | .linWrBanksel _ _ | .linWrMode _ _
  | .wcWrEn _ _ | .wcWrRomb _ _ | .wcWrSel _ _ | .wcWrLatch _ _
  | .wbWrRamen _ _ | .wbWrRomb0 _ _ | .wbWrRomb1 _ _ | .wbWrRamb _ _ => true
  | _ => false

/-- The offset stays a variable here: with a concrete one the kernel would compute where the byte is placed. -/
theorem writeRam_keeps_banks {off : Nat} {d : Byte} {mirror : State → State} {s : State}
    (h : ∀ u, (mirror u).banks = u.banks) : EndsIn (fun t => t.banks = s.banks) (writeRam off d mirror s) :=
  endsIn_writeRam (h (putRam off d s)) fun _ => rfl

theorem exec_keeps_banks {i : Instr} (hcon : i ≠ .con) (hi : writesBank i = false) (s : State) :
    EndsIn (fun t => t.banks = s.banks) (exec i s) := by
  cases i with
  | con => exact absurd rfl hcon
  | linWrRamen | linWrRomb | linWrBanksel | linWrMode | wcWrEn | wcWrRomb | wcWrSel | wcWrLatch
  | wbWrRamen | wbWrRomb0 | wbWrRomb1 | wbWrRamb => cases hi
  | roRdRom0 | roRdRomx | linRdRom0 | linRdRomx | wcRdRom0 | wcRdRomx | wbRdRom0 | wbRdRomx =>
    exact endsIn_whenRow (endsIn_readImage (fun _ => rfl) fun _ => rfl)
  | linRdRam | wcRdRam | wbRdRam => exact endsIn_whenRow (endsIn_readRam (fun _ => rfl) fun _ => rfl)
  | linWrRam => exact endsIn_whenRow (writeRam_keeps_banks fun _ => rfl)
  | wcWrRam | wbWrRam => exact endsIn_whenRow (writeRam_keeps_banks (banks_mirrorByte _ _))
  | wcRdRtc => exact endsIn_whenRow (endsIn_withRtcReg fun _ => endsIn_complete rfl)
  | wcWrRtc =>
    refine endsIn_whenRow (endsIn_withRtcReg fun _ => endsIn_complete ?_)
    split
    · exact banks_persistRtcBlock _ (s.setRtc _)
    · rfl
  | wcTick =>
    refine endsIn_whenRow (endsIn_complete ?_)
    split
    · exact banks_emitSecond (accumulate s)
    · rfl
  | _ => exact endsIn_whenRow (endsIn_complete rfl)

/-- Settles O51: the twelve writes each replace one register of their variant, every other operation keeps all registers. -/
theorem bankRegistersChangeOnlyByTheirWrites : Obligations.BankRegistersChangeOnlyByTheirWrites := by
  unfold Obligations.BankRegistersChangeOnlyByTheirWrites
  intro i s t h hcon
  cases i with
  | linWrRomb | linWrBanksel | linWrMode =>
    obtain ⟨hacc, hm⟩ := whenRow_next h
    obtain rfl := complete_next_iff.1 hm
    simp [(linear_of_applies hacc.applies).1, Instr.mnemonic]
  | linWrRamen a d =>
    obtain ⟨hacc, hm⟩ := whenRow_next h
    obtain rfl := complete_next_iff.1 hm
    obtain ⟨-, hwc, hwb⟩ := State.banks_eq_iff.1 (banks_linearEdge (enables d) s)
    simp [(linear_of_applies hacc.applies).1, Instr.mnemonic, hwc, hwb]
  | wcWrEn | wcWrRomb | wcWrSel =>
    obtain ⟨hacc, hm⟩ := whenRow_next h
    obtain rfl := complete_next_iff.1 hm
    simp [wideClock_of_applies hacc.applies, Instr.mnemonic]
  | wcWrLatch =>
    obtain ⟨hacc, hm⟩ := whenRow_next h
    obtain rfl := complete_next_iff.1 hm
    simp [wideClock_of_applies hacc.applies, Instr.mnemonic, latchCopy_eq]
  | wbWrRamen | wbWrRomb0 | wbWrRomb1 | wbWrRamb =>
    obtain ⟨hacc, hm⟩ := whenRow_next h
    obtain rfl := complete_next_iff.1 hm
    simp [wideBank_of_applies hacc.applies, Instr.mnemonic]
  | _ =>
    obtain ⟨hlin, hwc, hwb⟩ := State.banks_eq_iff.1 (exec_keeps_banks hcon rfl s t h)
    simp [hlin, hwc, hwb]

end Sys2Proof.Machine

/-! SUPPORT. The switchable window (20_memory.md R76): the bank of each variant in the arithmetic of the rules, and one meaning for its
four reads. -/

namespace Sys2Proof.Machine

/-- The bank of `LinearBank` with the shift as a product (41_linear_bank.md R167). -/
theorem effBank_eq_or_mul (r : LinearRegs) :
    effBank r = (if r.modeSelect = 0 then r.bankSelect.toNat * 4 else 0) ||| r.romBank.toNat := by
  rw [effBank, Nat.shiftLeft_eq]

/-- The nine bits of the bank of `WideBank` as a sum (44_wide_bank.md R268). -/
theorem bankWideBank_eq_add (r : WideBankRegs) : bankWideBank r = r.romBankHigh.toNat * 256 + r.romBankLow.toNat := by
  rw [bankWideBank, ← Nat.shiftLeft_add_eq_or_of_lt r.romBankLow.isLt, Nat.shiftLeft_eq]

section SwitchableRead

variable {s : State} {a : Addr} {i : Instr} {bank off : Nat}

theorem exec_switchableRead
    (hi : (i, bank) ∈ [(Instr.roRdRomx a, bankRomOnly), (.linRdRomx a, effBank s.lin), (.wcRdRomx a, bankWideClock s.wc),
      (.wbRdRomx a, bankWideBank s.wb)])
    (hoff : off = imgOffset bank a) : exec i s = whenRow i s (readImage off s) := by
  rw [hoff]
  simp only [List.mem_cons, List.not_mem_nil, or_false, Prod.mk.injEq] at hi
  obtain ⟨rfl, rfl⟩ | ⟨rfl, rfl⟩ | ⟨rfl, rfl⟩ | ⟨rfl, rfl⟩ := hi <;> rfl

end SwitchableRead

/-- Settles O14: an accepted read of the window is a read of the image at the banked offset, on either side of the image's size. -/
theorem switchableReadReturnsTheBankedImageByte : Obligations.SwitchableReadReturnsTheBankedImageByte := by
  unfold Obligations.SwitchableReadReturnsTheBankedImageByte
  intro s a i bank off hi hoff hacc
  rw [← effBank_eq_or_mul, ← bankWideBank_eq_add] at hi
  rw [exec_switchableRead hi hoff, whenRow_of_accepts hacc]
  exact ⟨readImage_of_lt, readImage_of_le⟩

end Sys2Proof.Machine

/-! SUPPORT. The writes that set a register or nothing (40_dispatch_romonly.md R141 to R143, 44_wide_bank.md R263 to R267): each is
one arm, given by its row and its datum's value. -/

namespace Sys2Proof.Machine

/-- Settles O16: the three accepted accesses end at once, the two to the window with their warning. -/
theorem romOnlyHasNoRegisterAndNoWindow : Obligations.RomOnlyHasNoRegisterAndNoWindow := by
  unfold Obligations.RomOnlyHasNoRegisterAndNoWindow
  intro s a d
  refine ⟨fun hacc => whenRow_of_accepts hacc _, fun hacc => ?_, fun hacc => whenRow_of_accepts hacc _⟩
  calc exec (.roRdWin a) s
      = disabledRead a (sentinelByte s.params.disabledReadRomOnly) s := whenRow_of_accepts hacc _
    _ = _ := by
      rw [disabledRead_eq]
      cases s.params.disabledReadRomOnly <;> rfl

/-- The enable test of `WideBank` is that of the other variants (44_wide_bank.md R263, decision D11). -/
theorem enablesWideBank_eq (d : Byte) : enablesWideBank d = decide (d.toNat % 16 = 10) := enables_eq d

theorem romBankHighOfDatum_eq (d : Byte) : romBankHighOfDatum d = BitVec.ofNat 1 (d.toNat % 2) := by
  apply BitVec.eq_of_toNat_eq
  simp [romBankHighOfDatum, wideBankMap]

/-- Settles O36: each accepted write replaces one register, by the value that its lemma above writes out, or none. -/
theorem wideBankRegisterWrites : Obligations.WideBankRegisterWrites := by
  unfold Obligations.WideBankRegisterWrites
  intro s a d
  rw [← enablesWideBank_eq, ← romBankHighOfDatum_eq]
  exact ⟨fun hacc => whenRow_of_accepts hacc _, fun hacc => whenRow_of_accepts hacc _,
    fun hacc => whenRow_of_accepts hacc _, fun hacc => whenRow_of_accepts hacc _⟩

end Sys2Proof.Machine

/-! SUPPORT. The RTC writes (43_rtc.md R233): the register that the selector names, with a datum in range or out of it. -/

namespace Sys2Proof.Machine

/-- The check of an RTC write on the value of the selector (43_rtc.md R233). -/
theorem rtcAccepts_eq_false {v d : Byte} {r : RtcReg} (hr : selectorOf v = .rtc r)
    (h : v.toNat ≤ 0x09 ∧ 60 ≤ d.toNat ∨ v.toNat = 0x0A ∧ 24 ≤ d.toNat) : rtcAccepts r d = false := by
  have hindex := index_of_selectorOf hr
  cases r with
  | seconds | minutes =>
    have hd : 60 ≤ d.toNat := by simp only [RtcReg.index] at hindex; omega
    exact decide_eq_false (Nat.not_lt.2 hd)
  | hours =>
    have hd : 24 ≤ d.toNat := by simp only [RtcReg.index] at hindex; omega
    exact decide_eq_false (Nat.not_lt.2 hd)
  | dayLow | dayHigh => simp only [RtcReg.index] at hindex; omega

/-- Settles O29: the check of the register fails, and the write ends at once. -/
theorem rejectedRtcWriteChangesNothing : Obligations.RejectedRtcWriteChangesNothing := by
  unfold Obligations.RejectedRtcWriteChangesNothing
  intro s a d hacc hd
  obtain ⟨r, hr⟩ := selector_of_window_rtc (window_of_applies hacc.applies).2
  calc exec (.wcWrRtc a d) s
      = withRtcReg s fun r => complete .done (if rtcAccepts r d then writeRtc r d s else s) := whenRow_of_accepts hacc _
    _ = complete .done s := by rw [withRtcReg_of_rtc hr, rtcAccepts_eq_false hr hd]; rfl
    _ = _ := complete_eq _ s

/-- Settles O28: the write sets the register in both files, and the persist, which gets to the store whole, does the rest. -/
theorem acceptedRtcWriteSetsBothFilesAndPersists : Obligations.AcceptedRtcWriteSetsBothFilesAndPersists := by
  unfold Obligations.AcceptedRtcWriteSetsBothFilesAndPersists
  rintro s a d n hacc hinv hmoved rfl hsixty hday
  obtain ⟨r, hindex, hexec⟩ := exec_wcWrRtc_of_accepts hacc hsixty hday
  obtain ⟨store, hpersist, hnone, hsome⟩ :=
    persistRtcBlock_takesBlock s.port.now (s := s.setRtc (writtenRtc r d s)) (wideClock_of_applies hacc.applies)
      hinv.storeOk hmoved
  refine ⟨s.rtc.live.set r d, s.rtc.latched.set r d, store, ?_, ?_, ?_, hnone, hsome⟩
  · rw [hexec]
    exact congrArg (complete .done) hpersist
  · rw [hindex, RtcFile.bytes_set]
  · rw [hindex, RtcFile.bytes_set]

end Sys2Proof.Machine

/-! SUPPORT. Whole-RAM copies and mirrored bytes, with whole and short transfers (41_linear_bank.md R163, 45_persistent_store.md R285,
R290, R291): what the copy gives by the number of bytes that move, and what the edge of the enable flag does with it. -/

namespace Sys2Proof.Machine

/-! ### The edges of the enable flag -/

section LinearEdge

variable {s : State} {st : Memory} {new : Bool}

theorem loadRam_of_store (hst : s.store = some st) :
    loadRam s =
      { s with
        ram := s.ram.copyFirst st (s.port.transfer.moved s.cfg.ramSize)
        log := s.log ++ s.port.transfer.note s.cfg.ramSize } := by
  have hload : loadRam s = notePartial s.port.transfer s.cfg.ramSize
      (s.setRam (s.ram.copyFirst st (s.port.transfer.moved s.cfg.ramSize))) := by
    simp only [loadRam, hst]
  exact hload.trans (notePartial_eq_append_note _ _ _)

theorem saveRam_of_store (hst : s.store = some st) :
    saveRam s =
      { s with
        store := some (st.copyFirst s.ram (s.port.transfer.moved s.cfg.ramSize))
        log := s.log ++ s.port.transfer.note s.cfg.ramSize } := by
  simp only [saveRam, hst, notePartial_eq_append_note]
  rfl

theorem linearEdge_of_rising (hold : s.lin.ramEnabled = false) (hnew : new = true) : linearEdge new s = loadRam s := by
  simp [linearEdge, hold, hnew]

theorem linearEdge_of_falling (hold : s.lin.ramEnabled = true) (hnew : new = false) : linearEdge new s = saveRam s := by
  simp [linearEdge, hold, hnew]

/-- Without an edge, or without a store, nothing is copied (41_linear_bank.md R163). -/
theorem linearEdge_eq_self (h : s.store = none ∨ s.lin.ramEnabled = new) : linearEdge new s = s := by
  obtain hnone | rfl := h
  · simp [linearEdge, loadRam, saveRam, hnone]
  · cases hen : s.lin.ramEnabled <;> simp [linearEdge, hen]

theorem exec_linWrRamen {a : Addr} {d : Byte} (hacc : s.Accepts (.linWrRamen a d)) :
    exec (.linWrRamen a d) s =
      .next
        { linearEdge (decide (d.toNat % 16 = 10)) s with
          lin := { s.lin with ramEnabled := decide (d.toNat % 16 = 10) }
          result := .done } := by
  rw [← enables_eq]
  exact whenRow_of_accepts hacc _

end LinearEdge

/-- A copy of the first bytes, its offsets on either side of the bound. -/
theorem Memory.copyFirst_spec (dst src : Memory) (n : Nat) :
    (∀ k, k < n → (dst.copyFirst src n).read k = src.read k) ∧
    ∀ k, n ≤ k → (dst.copyFirst src n).read k = dst.read k :=
  ⟨fun k hk => (Memory.read_copyFirst dst src n k).trans (if_pos hk),
    fun k hk => (Memory.read_copyFirst dst src n k).trans (if_neg (Nat.not_lt.2 hk))⟩

/-- Settles O18: by the edge; a copy that is made moves the whole RAM and notes nothing. -/
theorem linearEnableWriteCopiesOnEdges : Obligations.LinearEnableWriteCopiesOnEdges := by
  unfold Obligations.LinearEnableWriteCopiesOnEdges
  intro s a d hacc hcovers
  rw [exec_linWrRamen hacc]
  by_cases hsame : s.store = none ∨ s.lin.ramEnabled = decide (d.toNat % 16 = 10)
  · refine ⟨s.ram, s.store, by rw [linearEdge_eq_self hsame], rfl, ?_, ?_, fun _ => ⟨rfl, rfl⟩⟩
    · intro st hst hold hd
      simp [hst, hold, hd] at hsame
    · intro st hst hold hd
      simp [hst, hold, hd] at hsame
  · obtain ⟨hsome, hedge⟩ := not_or.1 hsame
    obtain ⟨st, hst⟩ := Option.ne_none_iff_exists'.1 hsome
    have hmoves : s.port.transfer.covers s.cfg.ramSize = true := (hcovers.resolve_left hsome).resolve_left hedge
    cases hold : s.lin.ramEnabled with
    | false =>
      have hd : d.toNat % 16 = 10 := by simpa [hold] using hedge
      refine ⟨s.ram.copyFirst st s.cfg.ramSize, s.store, ?_, rfl, ?_, ?_, fun h => absurd h (hold ▸ hsame)⟩
      · rw [linearEdge_of_rising hold (decide_eq_true hd), loadRam_of_store hst, Transfer.moved_of_covers hmoves,
          Transfer.note_of_covers hmoves, List.append_nil]
      · intro st' hst' _ _
        obtain rfl : st = st' := Option.some.inj (hst.symm.trans hst')
        obtain ⟨hlow, hhigh⟩ := Memory.copyFirst_spec s.ram st s.cfg.ramSize
        exact ⟨hlow, hhigh, rfl⟩
      · exact fun _ _ h => Bool.noConfusion h
    | true =>
      have hd : d.toNat % 16 ≠ 10 := by simpa [hold] using hedge
      refine ⟨s.ram, some (st.copyFirst s.ram s.cfg.ramSize), ?_, rfl, ?_, ?_, fun h => absurd h (hold ▸ hsame)⟩
      · rw [linearEdge_of_falling hold (decide_eq_false hd), saveRam_of_store hst, Transfer.moved_of_covers hmoves,
          Transfer.note_of_covers hmoves, List.append_nil]
      · exact fun _ _ h => Bool.noConfusion h
      · intro st' hst' _ _
        obtain rfl : st = st' := Option.some.inj (hst.symm.trans hst')
        obtain ⟨hlow, hhigh⟩ := Memory.copyFirst_spec st s.ram s.cfg.ramSize
        exact ⟨rfl, _, rfl, rfl, hlow, hhigh⟩

/-! ### Transfers that fall short -/

section ShortTransfer

variable {s : State} {st : Memory} {n : Nat}

theorem Transfer.moved_of_short {tr : Transfer} {len : Nat} (ht : tr = .onlyFirst n) (hn : n < len) : tr.moved len = n := by
  rw [ht]
  exact Nat.min_eq_left hn.le

theorem Transfer.note_of_moved_lt {tr : Transfer} {len : Nat} (h : tr.moved len < len) : tr.note len = [.partialIo] :=
  if_pos h

/-- A mirrored byte that does not move leaves the store as it was, and the warning (45_persistent_store.md R291). -/
theorem mirrorByte_of_short (hst : s.store = some st) (ht : s.port.transfer = .onlyFirst 0) (off : Nat) (d : Byte) :
    mirrorByte off d s = { s with log := s.log ++ [.partialIo] } := by
  obtain ⟨hnone, -⟩ | ⟨st', -, ⟨hone, -⟩ | ⟨-, h⟩⟩ := mirrorByte_cases off d s
  · rw [hst] at hnone
    cases hnone
  · rw [Transfer.moved_of_short ht Nat.one_pos] at hone
    cases hone
  · exact h

theorem exec_wbWrRam {a : Addr} {d : Byte} {off : Nat} (hoff : off = s.wb.ramBank.toNat * 8192 + (a.toNat - 0xA000)) :
    exec (.wbWrRam a d) s = whenRow (.wbWrRam a d) s (writeRam off d (mirrorByte off d) s) := by
  rw [hoff]
  rfl

theorem exec_mirroredWrite {a : Addr} {d : Byte} {i : Instr} {off : Nat}
    (hi : (i, off) ∈ [(Instr.wcWrRam a d, s.wc.ramBankOrRtcRegister.toNat * 8192 + (a.toNat - 0xA000)),
      (.wbWrRam a d, s.wb.ramBank.toNat * 8192 + (a.toNat - 0xA000))]) :
    exec i s = whenRow i s (writeRam off d (mirrorByte off d) s) := by
  simp only [List.mem_cons, List.not_mem_nil, or_false, Prod.mk.injEq] at hi
  obtain ⟨rfl, hoff⟩ | ⟨rfl, hoff⟩ := hi
  · exact exec_wcWrRam hoff
  · exact exec_wbWrRam hoff

end ShortTransfer

/-- Settles O59: a byte that does not move leaves the store, a copy that falls short moves the bytes below its bound. -/
theorem partialCopyMovesAPrefixAndWarns : Obligations.PartialCopyMovesAPrefixAndWarns := by
  unfold Obligations.PartialCopyMovesAPrefixAndWarns
  intro s a d n off st hinv ht hst
  refine ⟨?_, ?_, ?_⟩
  · rintro i hi hacc rfl hoff
    obtain ⟨-, hwritten, hkept⟩ := Memory.takesByte_write hinv.ramWf (hinv.ramSize ▸ hoff) d
    refine ⟨s.ram.write off d, ?_, hwritten, hkept⟩
    rw [exec_mirroredWrite hi, whenRow_of_accepts hacc, writeRam_eq, if_pos hoff,
      mirrorByte_of_short (s := { s with ram := s.ram.write off d }) hst ht]
  · intro hacc hn hold hd
    have hmoved := Transfer.moved_of_short ht hn
    refine ⟨st.copyFirst s.ram n, ?_, Memory.copyFirst_spec st s.ram n⟩
    rw [exec_linWrRamen hacc, linearEdge_of_falling hold (decide_eq_false hd), saveRam_of_store hst,
      Transfer.note_of_moved_lt (hmoved.trans_lt hn), hmoved, decide_eq_false hd]
  · intro hacc hn hold hd
    have hmoved := Transfer.moved_of_short ht hn
    refine ⟨s.ram.copyFirst st n, ?_, Memory.copyFirst_spec s.ram st n⟩
    rw [exec_linWrRamen hacc, linearEdge_of_rising hold (decide_eq_true hd), loadRam_of_store hst,
      Transfer.note_of_moved_lt (hmoved.trans_lt hn), hmoved, decide_eq_true hd]

end Sys2Proof.Machine
